-- ==== Sys2Proof/Word.lean ====
section
/-! DEFINITION. The machine word and the other fixed widths of the core (00_scope.md R7). -/

namespace Sys2Proof

/-- The machine word: a 16-bit register or memory cell (R7 WORD_BITS, R17). -/
abbrev Word := BitVec 16

/-- A byte, which exists only at the two host boundaries of R72. -/
abbrev Byte := BitVec 8

/-- The 32-bit device and manufacturer ids (R44, R303). -/
abbrev DoubleWord := BitVec 32

end Sys2Proof
end

