-- ==== Sys2Proof/Syntax.lean ====
section
/-! DEFINITION. The instruction set as syntax (30_encoding.md): registers, operand forms, and one constructor of Instr
per row of the opcode table. An operand carries the next word it reads (R106), so a term is a whole instruction. -/

namespace Sys2Proof

/-- The eight general registers in the order of their operand index (R30). -/
inductive Reg where
  | a | b | c | x | y | z | i | j
  deriving DecidableEq, Repr

/-- The operand forms that mean the same in the a and in the b field (R105, R106).
`n` is the next word the form reads. -/
inductive Operand where
  /-- 0x00-0x07: the register itself. -/
  | reg (r : Reg)
  /-- 0x08-0x0F: `[r]`. -/
  | ind (r : Reg)
  /-- 0x10-0x17: `[r + n]`. -/
  | idx (r : Reg) (n : Word)
  /-- 0x19: PEEK, `[SP]`. -/
  | peek
  /-- 0x1A: PICK n, `[SP + n]`. -/
  | pick (n : Word)
  /-- 0x1B. -/
  | sp
  /-- 0x1C. -/
  | pc
  /-- 0x1D. -/
  | ex
  /-- 0x1E: `[n]`. -/
  | abs (n : Word)
  /-- 0x1F: the literal `n`. -/
  | lit (n : Word)
  deriving DecidableEq, Repr

/-- An operand of the six-bit a field (R105, R106): the shared forms, POP, and the short literals, written by their
value (R107). -/
inductive SrcOperand where
  | common (o : Operand)
  /-- 0x18 in a. -/
  | pop
  /-- 0x20-0x3F: the literal value, one of 0xFFFF, 0 .. 30. -/
  | short (v : Word)
  deriving DecidableEq, Repr

/-- An operand of the five-bit b field (R105, R106): the shared forms and PUSH. -/
inductive DstOperand where
  | common (o : Operand)
  /-- 0x18 in b. -/
  | push
  deriving DecidableEq, Repr

/-- The opcode of an instruction: the five-bit basic opcode of R111 or the five-bit special opcode of R112. -/
inductive Opcode where
  | basic (o : Nat)
  | special (so : Nat)
  deriving DecidableEq, Repr

/-- One constructor per row of spec/opcode_table.json. A basic instruction has the destination `b` and the source `a`,
written in the assembly's order (R119); a special one has the single operand `a` (R102). -/
inductive Instr where
  /-- SET, basic opcode 0x01 (R190). -/
  | set (b : DstOperand) (a : SrcOperand)
  /-- ADD, basic opcode 0x02 (R191). -/
  | add (b : DstOperand) (a : SrcOperand)
  /-- SUB, basic opcode 0x03 (R192). -/
  | sub (b : DstOperand) (a : SrcOperand)
  /-- MUL, basic opcode 0x04 (R193). -/
  | mul (b : DstOperand) (a : SrcOperand)
  /-- MLI, basic opcode 0x05 (R194). -/
  | mli (b : DstOperand) (a : SrcOperand)
  /-- DIV, basic opcode 0x06 (R195). -/
  | div (b : DstOperand) (a : SrcOperand)
  /-- DVI, basic opcode 0x07 (R196). -/
  | dvi (b : DstOperand) (a : SrcOperand)
  /-- MOD, basic opcode 0x08 (R197). -/
  | mod (b : DstOperand) (a : SrcOperand)
  /-- MDI, basic opcode 0x09 (R198). -/
  | mdi (b : DstOperand) (a : SrcOperand)
  /-- AND, basic opcode 0x0A (R230). -/
  | and (b : DstOperand) (a : SrcOperand)
  /-- BOR, basic opcode 0x0B (R231). -/
  | bor (b : DstOperand) (a : SrcOperand)
  /-- XOR, basic opcode 0x0C (R232). -/
  | xor (b : DstOperand) (a : SrcOperand)
  /-- SHR, basic opcode 0x0D (R233). -/
  | shr (b : DstOperand) (a : SrcOperand)
  /-- ASR, basic opcode 0x0E (R234). -/
  | asr (b : DstOperand) (a : SrcOperand)
  /-- SHL, basic opcode 0x0F (R235). -/
  | shl (b : DstOperand) (a : SrcOperand)
  /-- IFB, basic opcode 0x10 (R251). -/
  | ifb (b : DstOperand) (a : SrcOperand)
  /-- IFC, basic opcode 0x11 (R252). -/
  | ifc (b : DstOperand) (a : SrcOperand)
  /-- IFE, basic opcode 0x12 (R253). -/
  | ife (b : DstOperand) (a : SrcOperand)
  /-- IFN, basic opcode 0x13 (R254). -/
  | ifn (b : DstOperand) (a : SrcOperand)
  /-- IFG, basic opcode 0x14 (R255). -/
  | ifg (b : DstOperand) (a : SrcOperand)
  /-- IFA, basic opcode 0x15 (R256). -/
  | ifa (b : DstOperand) (a : SrcOperand)
  /-- IFL, basic opcode 0x16 (R257). -/
  | ifl (b : DstOperand) (a : SrcOperand)
  /-- IFU, basic opcode 0x17 (R258). -/
  | ifu (b : DstOperand) (a : SrcOperand)
  /-- RESERVED_BASIC_18, basic opcode 0x18 (R113, R155). -/
  | reservedBasic18 (b : DstOperand) (a : SrcOperand)
  /-- RESERVED_BASIC_19, basic opcode 0x19 (R113, R155). -/
  | reservedBasic19 (b : DstOperand) (a : SrcOperand)
  /-- ADX, basic opcode 0x1A (R199). -/
  | adx (b : DstOperand) (a : SrcOperand)
  /-- SBX, basic opcode 0x1B (R200). -/
  | sbx (b : DstOperand) (a : SrcOperand)
  /-- RESERVED_BASIC_1C, basic opcode 0x1C (R113, R155). -/
  | reservedBasic1C (b : DstOperand) (a : SrcOperand)
  /-- RESERVED_BASIC_1D, basic opcode 0x1D (R113, R155). -/
  | reservedBasic1D (b : DstOperand) (a : SrcOperand)
  /-- STI, basic opcode 0x1E (R270). -/
  | sti (b : DstOperand) (a : SrcOperand)
  /-- STD, basic opcode 0x1F (R271). -/
  | std (b : DstOperand) (a : SrcOperand)
  /-- RESERVED_SPECIAL_00, special opcode 0x00 (R114, R155). -/
  | reservedSpecial00 (a : SrcOperand)
  /-- JSR, special opcode 0x01 (R280). -/
  | jsr (a : SrcOperand)
  /-- RESERVED_SPECIAL_02, special opcode 0x02 (R114, R155). -/
  | reservedSpecial02 (a : SrcOperand)
  /-- RESERVED_SPECIAL_03, special opcode 0x03 (R114, R155). -/
  | reservedSpecial03 (a : SrcOperand)
  /-- RESERVED_SPECIAL_04, special opcode 0x04 (R114, R155). -/
  | reservedSpecial04 (a : SrcOperand)
  /-- RESERVED_SPECIAL_05, special opcode 0x05 (R114, R155). -/
  | reservedSpecial05 (a : SrcOperand)
  /-- RESERVED_SPECIAL_06, special opcode 0x06 (R114, R155). -/
  | reservedSpecial06 (a : SrcOperand)
  /-- RESERVED_SPECIAL_07, special opcode 0x07 (R114, R155). -/
  | reservedSpecial07 (a : SrcOperand)
  /-- INT, special opcode 0x08 (R281). -/
  | int (a : SrcOperand)
  /-- IAG, special opcode 0x09 (R282). -/
  | iag (a : SrcOperand)
  /-- IAS, special opcode 0x0A (R283). -/
  | ias (a : SrcOperand)
  /-- RFI, special opcode 0x0B (R284). -/
  | rfi (a : SrcOperand)
  /-- IAQ, special opcode 0x0C (R285). -/
  | iaq (a : SrcOperand)
  /-- RESERVED_SPECIAL_0D, special opcode 0x0D (R114, R155). -/
  | reservedSpecial0D (a : SrcOperand)
  /-- RESERVED_SPECIAL_0E, special opcode 0x0E (R114, R155). -/
  | reservedSpecial0E (a : SrcOperand)
  /-- RESERVED_SPECIAL_0F, special opcode 0x0F (R114, R155). -/
  | reservedSpecial0F (a : SrcOperand)
  /-- HWN, special opcode 0x10 (R304). -/
  | hwn (a : SrcOperand)
  /-- HWQ, special opcode 0x11 (R305). -/
  | hwq (a : SrcOperand)
  /-- HWI, special opcode 0x12 (R306). -/
  | hwi (a : SrcOperand)
  /-- RESERVED_SPECIAL_13, special opcode 0x13 (R114, R155). -/
  | reservedSpecial13 (a : SrcOperand)
  /-- RESERVED_SPECIAL_14, special opcode 0x14 (R114, R155). -/
  | reservedSpecial14 (a : SrcOperand)
  /-- RESERVED_SPECIAL_15, special opcode 0x15 (R114, R155). -/
  | reservedSpecial15 (a : SrcOperand)
  /-- RESERVED_SPECIAL_16, special opcode 0x16 (R114, R155). -/
  | reservedSpecial16 (a : SrcOperand)
  /-- RESERVED_SPECIAL_17, special opcode 0x17 (R114, R155). -/
  | reservedSpecial17 (a : SrcOperand)
  /-- RESERVED_SPECIAL_18, special opcode 0x18 (R114, R155). -/
  | reservedSpecial18 (a : SrcOperand)
  /-- RESERVED_SPECIAL_19, special opcode 0x19 (R114, R155). -/
  | reservedSpecial19 (a : SrcOperand)
  /-- RESERVED_SPECIAL_1A, special opcode 0x1A (R114, R155). -/
  | reservedSpecial1A (a : SrcOperand)
  /-- RESERVED_SPECIAL_1B, special opcode 0x1B (R114, R155). -/
  | reservedSpecial1B (a : SrcOperand)
  /-- RESERVED_SPECIAL_1C, special opcode 0x1C (R114, R155). -/
  | reservedSpecial1C (a : SrcOperand)
  /-- RESERVED_SPECIAL_1D, special opcode 0x1D (R114, R155). -/
  | reservedSpecial1D (a : SrcOperand)
  /-- RESERVED_SPECIAL_1E, special opcode 0x1E (R114, R155). -/
  | reservedSpecial1E (a : SrcOperand)
  /-- RESERVED_SPECIAL_1F, special opcode 0x1F (R114, R155). -/
  | reservedSpecial1F (a : SrcOperand)
  deriving DecidableEq, Repr

/-- The operand in the a field of an instruction (R101, R102). -/
def Instr.src : Instr → SrcOperand
  | .set _ a | .add _ a | .sub _ a | .mul _ a
  | .mli _ a | .div _ a | .dvi _ a | .mod _ a
  | .mdi _ a | .and _ a | .bor _ a | .xor _ a
  | .shr _ a | .asr _ a | .shl _ a | .ifb _ a
  | .ifc _ a | .ife _ a | .ifn _ a | .ifg _ a
  | .ifa _ a | .ifl _ a | .ifu _ a | .reservedBasic18 _ a
  | .reservedBasic19 _ a | .adx _ a | .sbx _ a | .reservedBasic1C _ a
  | .reservedBasic1D _ a | .sti _ a | .std _ a | .reservedSpecial00 a
  | .jsr a | .reservedSpecial02 a | .reservedSpecial03 a | .reservedSpecial04 a
  | .reservedSpecial05 a | .reservedSpecial06 a | .reservedSpecial07 a | .int a
  | .iag a | .ias a | .rfi a | .iaq a
  | .reservedSpecial0D a | .reservedSpecial0E a | .reservedSpecial0F a | .hwn a
  | .hwq a | .hwi a | .reservedSpecial13 a | .reservedSpecial14 a
  | .reservedSpecial15 a | .reservedSpecial16 a | .reservedSpecial17 a | .reservedSpecial18 a
  | .reservedSpecial19 a | .reservedSpecial1A a | .reservedSpecial1B a | .reservedSpecial1C a
  | .reservedSpecial1D a | .reservedSpecial1E a | .reservedSpecial1F a => a

/-- The operand in the b field of a basic instruction (R101); a special instruction has none (R102). -/
def Instr.dst : Instr → Option DstOperand
  | .set b _ | .add b _ | .sub b _ | .mul b _
  | .mli b _ | .div b _ | .dvi b _ | .mod b _
  | .mdi b _ | .and b _ | .bor b _ | .xor b _
  | .shr b _ | .asr b _ | .shl b _ | .ifb b _
  | .ifc b _ | .ife b _ | .ifn b _ | .ifg b _
  | .ifa b _ | .ifl b _ | .ifu b _ | .reservedBasic18 b _
  | .reservedBasic19 b _ | .adx b _ | .sbx b _ | .reservedBasic1C b _
  | .reservedBasic1D b _ | .sti b _ | .std b _ => some b
  | .reservedSpecial00 _ | .jsr _ | .reservedSpecial02 _ | .reservedSpecial03 _
  | .reservedSpecial04 _ | .reservedSpecial05 _ | .reservedSpecial06 _ | .reservedSpecial07 _
  | .int _ | .iag _ | .ias _ | .rfi _
  | .iaq _ | .reservedSpecial0D _ | .reservedSpecial0E _ | .reservedSpecial0F _
  | .hwn _ | .hwq _ | .hwi _ | .reservedSpecial13 _
  | .reservedSpecial14 _ | .reservedSpecial15 _ | .reservedSpecial16 _ | .reservedSpecial17 _
  | .reservedSpecial18 _ | .reservedSpecial19 _ | .reservedSpecial1A _ | .reservedSpecial1B _
  | .reservedSpecial1C _ | .reservedSpecial1D _ | .reservedSpecial1E _ | .reservedSpecial1F _ => none

/-- A literal operand as an assembler encodes it: the short form wherever it exists (R107, R121). -/
def SrcOperand.literal (v : Word) : SrcOperand :=
  if (v + 1).toNat < 32 then .short v else .common (.lit v)

/-- `JMP a`, a spelling of `SET PC, a` (R120). -/
def Instr.jmp (a : SrcOperand) : Instr := .set (.common .pc) a

/-- `RET`, a spelling of `SET PC, POP` (R120). -/
def Instr.ret : Instr := .set (.common .pc) .pop

/-- `HALT`, a spelling of `ADD PC, -1` (R104, R120). -/
def Instr.halt : Instr := .add (.common .pc) (.short 0xFFFF)

end Sys2Proof
end

