-- ==== Sys2Proof/Config.lean ====
section
/-! DEFINITION. What an implementation fixes: the types of the spec's named parameters (00_scope.md R9), and the free
values, which the spec gives no value. The defaults of the parameters stand in Machine/Params.lean.
Every `opaque` constant below has no body: no proof can learn its value (log entries 5 and 11). -/

namespace Sys2Proof

/-- What the hardware query reports of a device: id, version and manufacturer (R44, R303). -/
structure Identity where
  id : DoubleWord
  version : Word
  manufacturer : DoubleWord
  deriving DecidableEq, Repr, Inhabited

/-- The two readings of DVI of -32768 by -1 (R196, D10). -/
inductive DviOverflow where
  | mathematical
  | fault
  deriving DecidableEq, Repr

/-- The eight general registers (R30). -/
structure GenRegs where
  a : Word
  b : Word
  c : Word
  x : Word
  y : Word
  z : Word
  i : Word
  j : Word
  deriving DecidableEq, Repr, Inhabited

/-- The twelve registers (R7, R45), in the order of the snapshot (R504). -/
structure CpuRegs where
  gen : GenRegs
  pc : Word
  sp : Word
  ex : Word
  ia : Word
  deriving DecidableEq, Repr, Inhabited

/-- The name of one of the twelve registers. -/
inductive CpuReg where
  | gen (r : Reg)
  | pc
  | sp
  | ex
  | ia
  deriving DecidableEq, Repr

/-- One thing a device does to the CPU through its handle: the three that R307 allows, and no other. -/
inductive DeviceEvent where
  | writeReg (r : CpuReg) (v : Word)
  | writeMem (addr v : Word)
  | interrupt (m : Word)
  deriving DecidableEq, Repr, Inhabited

/-- Where the code of a device runs (R307): in its connect callback, its HWI handler or its per-tick update. -/
inductive DeviceEntry where
  | connect
  | handle
  | update (dt : Rat)
  deriving DecidableEq, Repr

/-- What a device's code does next, with its new local words: one event, or its end with the extra cycles (R303). -/
inductive DeviceMove where
  | act (e : DeviceEvent) (locals : List Word)
  | finish (locals : List Word) (extra : Nat)
  deriving DecidableEq, Repr, Inhabited

/-- The named parameters that have a default (R9; 92_eei_decisions.md, Named parameters). A machine has them in its state, so
a run may have any values of them (log entry 3). -/
structure Parameters where
  /-- ID_CLOCK (R330). -/
  idClock : Identity
  /-- ID_KEYBOARD (R345). -/
  idKeyboard : Identity
  /-- ID_DISPLAY (R370). -/
  idDisplay : Identity
  /-- ID_FLOPPY (R400). -/
  idFloppy : Identity
  /-- CLOCK_BASE_HZ (R331). -/
  clockBaseHz : Nat
  /-- KEY_ALT_CODE (R350). -/
  keyAltCode : Word
  /-- DEFAULT_PALETTE (R384). -/
  defaultPalette : List Word
  /-- BLINK_PERIOD in seconds (R379). -/
  blinkPeriod : Rat
  /-- FLOPPY_SECTOR_WORDS (R401). -/
  floppySectorWords : Nat
  /-- FLOPPY_SECTORS_PER_TRACK (R401). -/
  floppySectorsPerTrack : Nat
  /-- FLOPPY_TRACKS (R401). -/
  floppyTracks : Nat
  /-- FLOPPY_SEEK_TIME_PER_TRACK in seconds (R402). -/
  floppySeekTimePerTrack : Rat
  /-- FLOPPY_SECTOR_TIME in seconds (R402). -/
  floppySectorTime : Rat
  /-- SBX_EX_SIGNED (R200, D9). -/
  sbxExSigned : Bool
  /-- DVI_OVERFLOW (R196, D10). -/
  dviOverflow : DviOverflow
  deriving DecidableEq, Repr

namespace Config

/-- DEFAULT_FONT (R384): word `i`, for `i` in 0 .. 255. No source gives the glyphs. DESIGN CHOICE, log entry 5. -/
opaque defaultFont : Nat → Word

/-- SNAPSHOT_MAGIC (R504), an opaque constant with no value in any source. DESIGN CHOICE, log entry 5. -/
opaque snapshotMagic : Nat

/-- SNAPSHOT_VERSION (R504), an opaque constant with no value in any source. DESIGN CHOICE, log entry 5. -/
opaque snapshotVersion : Nat

/-- What the code of a device of the given model, which is none of the four reference devices, does next: a function of its local
words and of the registers and the memory as they are then, after all that it did before (R303, R307). DESIGN CHOICE, log
entry 11. -/
opaque foreignMove :
  (model : Nat) → DeviceEntry → (locals : List Word) → CpuRegs → (mem : List (Nat × Word)) → DeviceMove

/-- A bound on the number of events of one run of such code, which ends (R303). DESIGN CHOICE, log entry 11. -/
opaque foreignBound : (model : Nat) → DeviceEntry → (locals : List Word) → CpuRegs → (mem : List (Nat × Word)) → Nat

/-- The local words of such a device at connect (R501). DESIGN CHOICE, log entry 11. -/
opaque foreignReset : (model : Nat) → List Word

/-- Cancelling the deferred completions of such a device, which changes nothing but its local words (R511). DESIGN CHOICE,
log entry 11. -/
opaque foreignCancel : (model : Nat) → (locals : List Word) → List Word

end Config

end Sys2Proof
end

