-- ==== Sys2Proof/Machine/Params.lean ====
section
/-! DEFINITION. The constants of 00_scope.md R7, and the named parameters (00_scope.md R9; 92_eei_decisions.md, Named
parameters): the values the table allows them, and their defaults, with which a machine starts (log entries 3 and 4). -/

namespace Sys2Proof

/-- FLOPPY_SECTORS (R401). -/
def Parameters.floppySectors (p : Parameters) : Nat := p.floppyTracks * p.floppySectorsPerTrack

/-- The parameters have values of the types that the table gives them. -/
def Parameters.wf (p : Parameters) : Bool :=
  decide (0 < p.clockBaseHz) && decide (p.defaultPalette.length = 16) && decide (0 < p.blinkPeriod) &&
    decide (0 < p.floppySectorWords) && decide (0 < p.floppySectorsPerTrack) && decide (0 < p.floppyTracks) &&
    decide (0 ≤ p.floppySeekTimePerTrack) && decide (0 ≤ p.floppySectorTime)

namespace Machine.Params

/-- QUEUE_FIRE_BOUND (R7). -/
def queueFireBound : Nat := 256

/-- MAX_DEVICES (R7). -/
def maxDevices : Nat := 65536

/-- HALT_WORD, the encoding of `ADD PC, -1` (R7, R104). -/
def haltWord : Word := 0x8382

/-- DEFAULT_FONT: 256 words, of which no source gives any (R384). -/
def defaultFont : List Word := (List.range 256).map Config.defaultFont

/-- Every named parameter at its default. The times are fractions of a second in lowest terms. -/
def defaults : Parameters where
  idClock := { id := 0x12D0B402, version := 0x0001, manufacturer := 0x00000000 }
  idKeyboard := { id := 0x30CF7406, version := 0x0001, manufacturer := 0x00000000 }
  idDisplay := { id := 0x7349F615, version := 0x1802, manufacturer := 0x1C6C8B36 }
  idFloppy := { id := 0x4FD524C5, version := 0x000B, manufacturer := 0x1EB37E91 }
  clockBaseHz := 60
  keyAltCode := 0x0092
  defaultPalette :=
    [0x0000, 0x000A, 0x00A0, 0x00AA, 0x0A00, 0x0A0A, 0x0A50, 0x0AAA,
     0x0555, 0x055F, 0x05F5, 0x05FF, 0x0F55, 0x0F5F, 0x0FF5, 0x0FFF]
  blinkPeriod := { num := 1, den := 2 }
  floppySectorWords := 512
  floppySectorsPerTrack := 18
  floppyTracks := 80
  floppySeekTimePerTrack := { num := 3, den := 1250 }
  floppySectorTime := { num := 128, den := 7675 }
  sbxExSigned := false
  dviOverflow := .mathematical

end Machine.Params

end Sys2Proof
end

