-- ==== Sys2Proof/Machine/Flags.lean ====
section
/-! DEFINITION. What the arithmetic and shift instructions compute: each function answers the result and the new EX, the
core's only flag (10_state.md R34, R45). They are the pseudocode of files 41 and 42 over exact integers, narrowed at
the end (R10 to R12). Also the tests of the conditionals (file 43). -/

namespace Sys2Proof.Machine

/-- `trunc16` on integers (R10). -/
def trunc16 (n : Int) : Word := BitVec.ofInt 16 n

/-- `uint` (R11). -/
def uint (w : Word) : Int := (w.toNat : Int)

/-- `sint` (R11): the integer whose two's complement encoding is `w`. -/
def sint (w : Word) : Int := if w.toNat < 0x8000 then (w.toNat : Int) else (w.toNat : Int) - 0x10000

/-- ADD (R191): the sum, and the carry. -/
def addFlags (bv av : Word) : Word × Word :=
  let r := uint bv + uint av
  (trunc16 r, if r > 0xFFFF then 0x0001 else 0x0000)

/-- SUB (R192): the difference, and the borrow. -/
def subFlags (bv av : Word) : Word × Word :=
  let r := uint bv - uint av
  (trunc16 r, if r < 0 then 0xFFFF else 0x0000)

/-- MUL (R193): the low and the high word of the unsigned product. -/
def mulFlags (bv av : Word) : Word × Word :=
  let r := uint bv * uint av
  (trunc16 r, trunc16 (r.fdiv 65536))

/-- MLI (R194): the low and the high word of the signed product. -/
def mliFlags (bv av : Word) : Word × Word :=
  let r := sint bv * sint av
  (trunc16 r, trunc16 (r.fdiv 65536))

/-- DIV (R195): the unsigned quotient and its fraction; 0 and 0 for a zero divisor. -/
def divFlags (bv av : Word) : Word × Word :=
  if av = 0#16 then (0#16, 0#16)
  else (trunc16 ((uint bv).fdiv (uint av)), trunc16 ((uint bv * 65536).fdiv (uint av)))

/-- DVI (R196): the signed quotient rounded toward 0 and its fraction; 0 and 0 for a zero divisor. The mathematical
reading of -32768 by -1. -/
def dviFlags (bv av : Word) : Word × Word :=
  if av = 0#16 then (0#16, 0#16)
  else (trunc16 ((sint bv).tdiv (sint av)), trunc16 ((sint bv * 65536).tdiv (sint av)))

/-- The one DVI that DVI_OVERFLOW is about: -32768 by -1 (R196, D10). -/
def dviOverflows (bv av : Word) : Bool := bv == 0x8000 && av == 0xFFFF

/-- MOD (R197): the unsigned remainder; 0 for a zero divisor. -/
def modResult (bv av : Word) : Word :=
  if av = 0#16 then 0#16 else trunc16 (uint bv - uint av * (uint bv).fdiv (uint av))

/-- MDI (R198): the signed remainder, with the sign of b; 0 for a zero divisor. -/
def mdiResult (bv av : Word) : Word :=
  if av = 0#16 then 0#16 else trunc16 (sint bv - sint av * (sint bv).tdiv (sint av))

/-- ADX (R199): the sum with EX, read unsigned, and the carry. -/
def adxFlags (bv av ex : Word) : Word × Word :=
  let r := uint bv + uint av + uint ex
  (trunc16 r, if r > 0xFFFF then 0x0001 else 0x0000)

/-- SBX (R200): the difference plus EX, read as the parameter SBX_EX_SIGNED says, and the borrow or carry. -/
def sbxFlags (exSigned : Bool) (bv av ex : Word) : Word × Word :=
  let e := if exSigned then sint ex else uint ex
  let r := uint bv - uint av + e
  (trunc16 r, if r < 0 then 0xFFFF else if r > 0xFFFF then 0x0001 else 0x0000)

/-- SHR (R233): the logical shift right, and the bits shifted out, left-justified. The count is not masked (R236). -/
def shrFlags (bv av : Word) : Word × Word :=
  (trunc16 ((bv.toNat >>> av.toNat : Nat) : Int), trunc16 (((bv.toNat * 65536) >>> av.toNat : Nat) : Int))

/-- ASR (R234): the arithmetic shift right, and the bits shifted out. The count is not masked (R236). -/
def asrFlags (bv av : Word) : Word × Word :=
  (trunc16 ((sint bv).fdiv ((2 ^ av.toNat : Nat) : Int)), trunc16 ((sint bv * 65536).fdiv ((2 ^ av.toNat : Nat) : Int)))

/-- SHL (R235): the shift left, and the bits shifted out, right-justified. The count is not masked (R236). -/
def shlFlags (bv av : Word) : Word × Word :=
  let r : Nat := bv.toNat * 2 ^ av.toNat
  (trunc16 (r : Int), trunc16 ((r >>> 16 : Nat) : Int))

/-- IFB (R251). -/
def testIfb (bv av : Word) : Bool := (bv &&& av) != 0#16

/-- IFC (R252). -/
def testIfc (bv av : Word) : Bool := (bv &&& av) == 0#16

/-- IFE (R253). -/
def testIfe (bv av : Word) : Bool := bv == av

/-- IFN (R254). -/
def testIfn (bv av : Word) : Bool := bv != av

/-- IFG (R255), unsigned. -/
def testIfg (bv av : Word) : Bool := decide (uint bv > uint av)

/-- IFA (R256), signed. -/
def testIfa (bv av : Word) : Bool := decide (sint bv > sint av)

/-- IFL (R257), unsigned. -/
def testIfl (bv av : Word) : Bool := decide (uint bv < uint av)

/-- IFU (R258), signed. -/
def testIfu (bv av : Word) : Bool := decide (sint bv < sint av)

end Sys2Proof.Machine
end

