-- ==== Sys2Proof/WellFormed.lean ====
section
/-! DEFINITION. Which terms of Syntax are instructions of the machine: those that have an encoding. -/

namespace Sys2Proof

/-- A short literal is one of -1 (0xFFFF) and 0 .. 30 (30_encoding.md R107); every other operand form has an encoding for
every value of its parts (R106). -/
def SrcOperand.wellFormed : SrcOperand → Bool
  | .common _ => true
  | .pop => true
  | .short v => (v + 1).toNat < 32

/-- An instruction is well formed when its a operand is; its b operand always is (R105, R106). -/
def Instr.wellFormed (i : Instr) : Bool := i.src.wellFormed

end Sys2Proof
end

