-- ==== Sys2Proof/Decode.lean ====
section
/-! DEFINITION. The decoder (30_encoding.md R100 to R116, 40_execution.md R143), total on every list of words, and after
it the encoder, written from the same tables of the spec. -/

namespace Sys2Proof

/-! ## Fields of the first word -/

/-- Bits `hi` down to `lo` of a word, as a natural number (R10). -/
def bits (w : Word) (hi lo : Nat) : Nat := w.toNat / 2 ^ lo % 2 ^ (hi + 1 - lo)

/-- The basic opcode field, bits 4:0 (R101). -/
def fieldO (w : Word) : Nat := bits w 4 0

/-- The b field, bits 9:5; the special opcode when bits 4:0 are zero (R101, R102). -/
def fieldB (w : Word) : Nat := bits w 9 5

/-- The a field, bits 15:10 (R101). -/
def fieldA (w : Word) : Nat := bits w 15 10

/-- NW: the operand codes that read a next word (R103). -/
def codeReadsNextWord (v : Nat) : Bool :=
  (0x10 ≤ v && v ≤ 0x17) || v == 0x1A || v == 0x1E || v == 0x1F

/-- Len: the number of words of the instruction whose first word is `w` (R103, R152). -/
def wordLength (w : Word) : Nat :=
  1 + (if codeReadsNextWord (fieldA w) then 1 else 0) +
    (if fieldO w ≠ 0 && codeReadsNextWord (fieldB w) then 1 else 0)

/-- A conditional word: a basic word with opcode 0x10 .. 0x17 (R153). -/
def isConditionalWord (w : Word) : Bool := 0x10 ≤ fieldO w && fieldO w ≤ 0x17

/-! ## Operands -/

/-- The general register with a given operand index 0 .. 7 (R30). -/
def Reg.ofIndex : Nat → Reg
  | 0 => .a | 1 => .b | 2 => .c | 3 => .x | 4 => .y | 5 => .z | 6 => .i | _ => .j

/-- The shared operand forms, codes 0x00-0x17 and 0x19-0x1F, with the next word `n` where the code reads one (R106). -/
def decodeOperand (code : Nat) (n : Word) : Operand :=
  if code < 0x08 then .reg (Reg.ofIndex code)
  else if code < 0x10 then .ind (Reg.ofIndex (code - 0x08))
  else if code < 0x18 then .idx (Reg.ofIndex (code - 0x10)) n
  else match code with
    | 0x19 => .peek
    | 0x1A => .pick n
    | 0x1B => .sp
    | 0x1C => .pc
    | 0x1D => .ex
    | 0x1E => .abs n
    | _ => .lit n

/-- The a field, codes 0x00 .. 0x3F (R106, R107): POP at 0x18, short literals from 0x20. -/
def decodeSrc (code : Nat) (n : Word) : SrcOperand :=
  if code = 0x18 then .pop
  else if code < 0x20 then .common (decodeOperand code n)
  else .short (BitVec.ofNat 16 code - 0x21)

/-- The b field, codes 0x00 .. 0x1F (R105, R106): PUSH at 0x18. -/
def decodeDst (code : Nat) (n : Word) : DstOperand :=
  if code = 0x18 then .push else .common (decodeOperand code n)

/-! ## Opcodes -/

/-- The basic opcode map, o = 0x01 .. 0x1F (R111, R113). The last case is 0x1F, the only five-bit opcode left. -/
def decodeBasic (o : Nat) (b : DstOperand) (a : SrcOperand) : Instr :=
  match o with
  | 0x01 => .set b a
  | 0x02 => .add b a
  | 0x03 => .sub b a
  | 0x04 => .mul b a
  | 0x05 => .mli b a
  | 0x06 => .div b a
  | 0x07 => .dvi b a
  | 0x08 => .mod b a
  | 0x09 => .mdi b a
  | 0x0A => .and b a
  | 0x0B => .bor b a
  | 0x0C => .xor b a
  | 0x0D => .shr b a
  | 0x0E => .asr b a
  | 0x0F => .shl b a
  | 0x10 => .ifb b a
  | 0x11 => .ifc b a
  | 0x12 => .ife b a
  | 0x13 => .ifn b a
  | 0x14 => .ifg b a
  | 0x15 => .ifa b a
  | 0x16 => .ifl b a
  | 0x17 => .ifu b a
  | 0x18 => .reservedBasic18 b a
  | 0x19 => .reservedBasic19 b a
  | 0x1A => .adx b a
  | 0x1B => .sbx b a
  | 0x1C => .reservedBasic1C b a
  | 0x1D => .reservedBasic1D b a
  | 0x1E => .sti b a
  | _ => .std b a

/-- The special opcode map, so = 0x00 .. 0x1F (R112, R114). The last case is 0x1F, the only five-bit opcode left. -/
def decodeSpecial (so : Nat) (a : SrcOperand) : Instr :=
  match so with
  | 0x00 => .reservedSpecial00 a
  | 0x01 => .jsr a
  | 0x02 => .reservedSpecial02 a
  | 0x03 => .reservedSpecial03 a
  | 0x04 => .reservedSpecial04 a
  | 0x05 => .reservedSpecial05 a
  | 0x06 => .reservedSpecial06 a
  | 0x07 => .reservedSpecial07 a
  | 0x08 => .int a
  | 0x09 => .iag a
  | 0x0A => .ias a
  | 0x0B => .rfi a
  | 0x0C => .iaq a
  | 0x0D => .reservedSpecial0D a
  | 0x0E => .reservedSpecial0E a
  | 0x0F => .reservedSpecial0F a
  | 0x10 => .hwn a
  | 0x11 => .hwq a
  | 0x12 => .hwi a
  | 0x13 => .reservedSpecial13 a
  | 0x14 => .reservedSpecial14 a
  | 0x15 => .reservedSpecial15 a
  | 0x16 => .reservedSpecial16 a
  | 0x17 => .reservedSpecial17 a
  | 0x18 => .reservedSpecial18 a
  | 0x19 => .reservedSpecial19 a
  | 0x1A => .reservedSpecial1A a
  | 0x1B => .reservedSpecial1B a
  | 0x1C => .reservedSpecial1C a
  | 0x1D => .reservedSpecial1D a
  | 0x1E => .reservedSpecial1E a
  | _ => .reservedSpecial1F a

/-- The instruction whose first word is `w` and whose following two words are `n1` and `n2` (R143). The a operand takes
the first next word and b the one after it when both read one (R104). Every first word decodes (R110). -/
def decodeInstr (w n1 n2 : Word) : Instr :=
  let a := decodeSrc (fieldA w) n1
  if fieldO w = 0 then decodeSpecial (fieldB w) a
  else decodeBasic (fieldO w)
    (decodeDst (fieldB w) (if codeReadsNextWord (fieldA w) then n2 else n1)) a

/-- Why a list of words is not the beginning of an instruction. Memory never ends (R70), so the CPU meets neither. -/
inductive DecodeError where
  /-- The list is empty. -/
  | noFirstWord
  /-- The list ends before the next words that the operand codes read (R103). -/
  | missingNextWord
  deriving DecidableEq, Repr

/-- What decoding a list of words answers: an instruction and the words after it, or a named rejection. -/
inductive DecodeResult where
  | ok (i : Instr) (rest : List Word)
  | rejected (e : DecodeError)
  deriving DecidableEq, Repr

/-- Decode the instruction at the head of a list of words (R100, R103, R143). -/
def decode : List Word → DecodeResult
  | [] => .rejected .noFirstWord
  | w :: rest =>
    if rest.length + 1 < wordLength w then .rejected .missingNextWord
    else .ok (decodeInstr w (rest.getD 0 0) (rest.getD 1 0)) (rest.drop (wordLength w - 1))

/-- Word number `k` of an instruction whose bits are the number `w` (bit 0 is the least significant of the first word). -/
def tableWordPart (w k : Nat) : Word := BitVec.ofNat 16 (w / 2 ^ (16 * k))

/-- What this decoder reads from an instruction numbered as spec/opcode_table.json numbers its bits. -/
def decodeTableWord (nbits w : Nat) : Option Instr :=
  let v := w % 2 ^ nbits
  match decode [tableWordPart v 0, tableWordPart v 1, tableWordPart v 2] with
  | .ok i _ => some i
  | .rejected _ => none

/-! ## The encoder -/

/-- The operand index of a general register (R30). -/
def Reg.index : Reg → Nat
  | .a => 0 | .b => 1 | .c => 2 | .x => 3 | .y => 4 | .z => 5 | .i => 6 | .j => 7

/-- The operand code of a shared form (R106). -/
def Operand.code : Operand → Nat
  | .reg r => r.index
  | .ind r => 0x08 + r.index
  | .idx r _ => 0x10 + r.index
  | .peek => 0x19
  | .pick _ => 0x1A
  | .sp => 0x1B
  | .pc => 0x1C
  | .ex => 0x1D
  | .abs _ => 0x1E
  | .lit _ => 0x1F

/-- The next word a shared form reads, if it reads one (R106). -/
def Operand.nextWords : Operand → List Word
  | .idx _ n | .pick n | .abs n | .lit n => [n]
  | .reg _ | .ind _ | .peek | .sp | .pc | .ex => []

/-- The six-bit code of an a operand (R106, R107). -/
def SrcOperand.code : SrcOperand → Nat
  | .common o => o.code
  | .pop => 0x18
  | .short v => 0x20 + (v + 1).toNat % 32

/-- The next word of an a operand, if it has one. -/
def SrcOperand.nextWords : SrcOperand → List Word
  | .common o => o.nextWords
  | .pop | .short _ => []

/-- The five-bit code of a b operand (R106). -/
def DstOperand.code : DstOperand → Nat
  | .common o => o.code
  | .push => 0x18

/-- The next word of a b operand, if it has one. -/
def DstOperand.nextWords : DstOperand → List Word
  | .common o => o.nextWords
  | .push => []

/-- The opcode of an instruction (R111 to R114). -/
def Instr.opcode : Instr → Opcode
  | .set _ _ => .basic 0x01
  | .add _ _ => .basic 0x02
  | .sub _ _ => .basic 0x03
  | .mul _ _ => .basic 0x04
  | .mli _ _ => .basic 0x05
  | .div _ _ => .basic 0x06
  | .dvi _ _ => .basic 0x07
  | .mod _ _ => .basic 0x08
  | .mdi _ _ => .basic 0x09
  | .and _ _ => .basic 0x0A
  | .bor _ _ => .basic 0x0B
  | .xor _ _ => .basic 0x0C
  | .shr _ _ => .basic 0x0D
  | .asr _ _ => .basic 0x0E
  | .shl _ _ => .basic 0x0F
  | .ifb _ _ => .basic 0x10
  | .ifc _ _ => .basic 0x11
  | .ife _ _ => .basic 0x12
  | .ifn _ _ => .basic 0x13
  | .ifg _ _ => .basic 0x14
  | .ifa _ _ => .basic 0x15
  | .ifl _ _ => .basic 0x16
  | .ifu _ _ => .basic 0x17
  | .reservedBasic18 _ _ => .basic 0x18
  | .reservedBasic19 _ _ => .basic 0x19
  | .adx _ _ => .basic 0x1A
  | .sbx _ _ => .basic 0x1B
  | .reservedBasic1C _ _ => .basic 0x1C
  | .reservedBasic1D _ _ => .basic 0x1D
  | .sti _ _ => .basic 0x1E
  | .std _ _ => .basic 0x1F
  | .reservedSpecial00 _ => .special 0x00
  | .jsr _ => .special 0x01
  | .reservedSpecial02 _ => .special 0x02
  | .reservedSpecial03 _ => .special 0x03
  | .reservedSpecial04 _ => .special 0x04
  | .reservedSpecial05 _ => .special 0x05
  | .reservedSpecial06 _ => .special 0x06
  | .reservedSpecial07 _ => .special 0x07
  | .int _ => .special 0x08
  | .iag _ => .special 0x09
  | .ias _ => .special 0x0A
  | .rfi _ => .special 0x0B
  | .iaq _ => .special 0x0C
  | .reservedSpecial0D _ => .special 0x0D
  | .reservedSpecial0E _ => .special 0x0E
  | .reservedSpecial0F _ => .special 0x0F
  | .hwn _ => .special 0x10
  | .hwq _ => .special 0x11
  | .hwi _ => .special 0x12
  | .reservedSpecial13 _ => .special 0x13
  | .reservedSpecial14 _ => .special 0x14
  | .reservedSpecial15 _ => .special 0x15
  | .reservedSpecial16 _ => .special 0x16
  | .reservedSpecial17 _ => .special 0x17
  | .reservedSpecial18 _ => .special 0x18
  | .reservedSpecial19 _ => .special 0x19
  | .reservedSpecial1A _ => .special 0x1A
  | .reservedSpecial1B _ => .special 0x1B
  | .reservedSpecial1C _ => .special 0x1C
  | .reservedSpecial1D _ => .special 0x1D
  | .reservedSpecial1E _ => .special 0x1E
  | .reservedSpecial1F _ => .special 0x1F

/-- The code of an instruction's b operand; 0 where there is none. -/
def Instr.dstCode (i : Instr) : Nat :=
  match i.dst with
  | some b => b.code
  | none => 0

/-- The next word of an instruction's b operand, if it has one. -/
def Instr.dstNextWords (i : Instr) : List Word :=
  match i.dst with
  | some b => b.nextWords
  | none => []

/-- The first word of an instruction: `(a << 10) | (b << 5) | o` or `(a << 10) | (so << 5)` (R101, R102). -/
def Instr.firstWord (i : Instr) : Word :=
  match i.opcode with
  | .basic o => BitVec.ofNat 16 (i.src.code * 1024 + i.dstCode * 32 + o)
  | .special so => BitVec.ofNat 16 (i.src.code * 1024 + so * 32)

/-- The words of an instruction: the first word, a's next word, then b's (R100, R104). -/
def encode (i : Instr) : List Word := i.firstWord :: (i.src.nextWords ++ i.dstNextWords)

/-- The number of words of an instruction (R100, R152). -/
def Instr.length (i : Instr) : Nat := 1 + i.src.nextWords.length + i.dstNextWords.length

end Sys2Proof
end

