-- ==== Sys2Proof/Machine/State.lean ====
section
/-! DEFINITION. The state of the machine as plain data (10_state.md, and the state tables of files 47, 48 and 49), the
faults and refusals, and the state after construction (70_reset_and_hazards.md R500). -/

namespace Sys2Proof.Machine

/-! ## Memory -/

/-- One listed word of memory: its address and its value. Memory is addressed in words and has no bytes (R72); log
entry 1. -/
abbrev Cell := Nat × Word

/-- The memory `M` of 65536 words (R43, R70): its nonzero words in rising order of address. An address that is not listed
reads 0, the reset contents (R47). `Memory.wf` of Ops says the form. -/
abbrev Memory := List Cell

/-! ## Device-local state -/

/-- Clock (47 R331). -/
structure ClockState where
  enabled : Bool
  period : Word
  ticks : Word
  acc : Rat
  msg : Word
  deriving DecidableEq, Repr

/-- Keyboard (47 R346). `down` is a set, kept as a strictly rising list (log entry 22). -/
structure KeyboardState where
  buf : List Word
  down : List Word
  msg : Word
  deriving DecidableEq, Repr

/-- Display (48 R371). -/
structure DisplayState where
  screen : Word
  font : Word
  palette : Word
  border : BitVec 4
  visible : Bool
  blinkAcc : Rat
  deriving DecidableEq, Repr

/-- The floppy controller's states (49 R403). -/
inductive FloppyStatus where
  | noMedia
  | ready
  | readyWp
  | busy
  deriving DecidableEq, Repr

/-- The floppy controller's errors (49 R404). Nothing produces `broken`, as R404 says. -/
inductive FloppyError where
  | noError
  | busy
  | noMedia
  | writeProtected
  | eject
  | badSector
  | broken
  deriving DecidableEq, Repr

/-- Medium (49 R405). `data` is a map from sector number to block, kept with strictly rising sector numbers (log
entry 22). -/
structure Medium where
  label : String
  wp : Bool
  data : List (Nat × List Word)
  deriving DecidableEq, Repr

/-- The direction of a transfer (49 R406). -/
inductive TransferKind where
  | read
  | write
  deriving DecidableEq, Repr

/-- The pending completion of the floppy controller (49 R406, R414). -/
structure Transfer where
  kind : TransferKind
  sector : Nat
  addr : Word
  track : Nat
  remaining : Rat
  deriving DecidableEq, Repr

/-- Floppy controller (49 R406). -/
structure FloppyState where
  status : FloppyStatus
  error : FloppyError
  msg : Word
  head : Nat
  medium : Option Medium
  op : Option Transfer
  deriving DecidableEq, Repr

/-- A device that is none of the four (46 R303): its model number, the selectors it defines, whether it has a per-tick
update, and its local words (log entry 11). -/
structure ForeignState where
  model : Nat
  selectors : List Word
  ticking : Bool
  locals : List Word
  deriving DecidableEq, Repr

/-- The local state of a connected device (R46). -/
inductive DeviceState where
  | clock (d : ClockState)
  | keyboard (d : KeyboardState)
  | display (d : DisplayState)
  | floppy (d : FloppyState)
  | foreign (d : ForeignState)
  deriving DecidableEq, Repr

/-- A connected device (R44, R303). `inst` is the host's number for the device instance (log entry 12). -/
structure Device where
  inst : Nat
  name : String
  ident : Identity
  state : DeviceState
  deriving DecidableEq, Repr

/-- A device slot (R44, R300). -/
inductive Slot where
  | connected (d : Device)
  | disconnected
  deriving DecidableEq, Repr

/-! ## The CPU -/

/-- The whole state (10_state.md R30 to R44). -/
structure State where
  /-- A, B, C, X, Y, Z, I, J (R30). -/
  gen : GenRegs
  /-- PC (R32). -/
  pc : Word
  /-- SP (R33). -/
  sp : Word
  /-- EX (R34). -/
  ex : Word
  /-- IA (R35). -/
  ia : Word
  /-- The flag `queueing` (R36). -/
  queueing : Bool
  /-- The flag `on_fire` (R37). -/
  onFire : Bool
  /-- The interrupt queue Q, head first (R38). -/
  queue : List Word
  /-- The cycle counter (R39). -/
  cycles : Nat
  /-- The flag `wake_req` (R40). -/
  wakeReq : Bool
  /-- The requests made during the instruction (R41). -/
  pending : List Word
  /-- The flag `powered` (R42). -/
  powered : Bool
  /-- The memory M (R43). -/
  mem : Memory
  /-- The device slots (R44). -/
  slots : List Slot
  /-- The named parameters (R9). Nothing changes them (log entry 3). -/
  params : Parameters
  deriving DecidableEq, Repr

/-- The twelve registers as one record (R7, R504). -/
def State.cpuRegs (s : State) : CpuRegs := { gen := s.gen, pc := s.pc, sp := s.sp, ex := s.ex, ia := s.ia }

/-- What stops the machine. -/
inductive Fault where
  /-- A failed conditional whose skip meets only conditional words never ends: the instruction is stuck, without a
  successor state (40 R154). Raised by IFB, IFC, IFE, IFN, IFG, IFA, IFL and IFU. Safe: nothing is claimed after it. -/
  | endlessSkip
  deriving DecidableEq, Repr

/-- What the model gives no step, by name (R15). -/
inductive Refusal where
  /-- An instruction that has no meaning in this model yet. Safe. -/
  | notModelled (mnemonic : String)
  /-- DVI of -32768 by -1 under DVI_OVERFLOW = fault (41 R196, D10). Raised by DVI, under that value of the parameter only.
  Safe. -/
  | dviOverflow
  /-- Execute, or a step, of a CPU that is not powered (40 R158, R42, D34). Safe. -/
  | executeUnpowered
  /-- Connect while an instruction is executing (46 R301, D32). Safe. -/
  | connectMidInstruction
  /-- Disconnect while an instruction is executing (46 R302, D32). Safe. -/
  | disconnectMidInstruction
  /-- Any other host action while an instruction is executing (70 R510). Safe. -/
  | hostActionMidInstruction
  /-- Connect with 65536 slots (46 R301, D33). Safe. -/
  | busFull
  /-- Connect of a device instance that is connected already (46 R301, 70 R512). Safe. -/
  | alreadyConnected
  /-- Disconnect, Update or a device action on a hardware id that names no slot (46 R302, R309). Safe. -/
  | noSuchHardwareId
  /-- A key, media or display action on a slot that does not hold that device (70 R512). Safe. -/
  | wrongDevice
  /-- Update with a negative time (70 R512). Safe. -/
  | negativeTime
  /-- LoadImage with an odd number of bytes (70 R503). Safe. -/
  | oddImage
  /-- LoadImage with more than 131072 bytes (70 R503). Safe. -/
  | imageTooLarge
  /-- Insert with a medium present (49 R416). Safe. -/
  | mediumPresent
  /-- Eject without a medium (49 R417). Safe. -/
  | noMedium
  /-- Insert of a value that is no medium of 49 R405: a sector number off the disk or a block of another size (log
  entry 24). Safe. -/
  | malformedMedium
  /-- Pixel outside 128 by 96 (70 R512). Safe. -/
  | pixelOutOfRange
  deriving DecidableEq, Repr

/-- Every general register 0 (R47). -/
def zeroRegs : GenRegs := { a := 0, b := 0, c := 0, x := 0, y := 0, z := 0, i := 0, j := 0 }

/-- The state right after construction of a machine with the given parameters: the reset column of R47 (R500). -/
def State.construct (p : Parameters) : State :=
  { gen := zeroRegs, pc := 0, sp := 0, ex := 0, ia := 0,
    queueing := false, onFire := false, queue := [], cycles := 0, wakeReq := false, pending := [],
    powered := true, mem := [], slots := [], params := p }

/-- The state right after construction, the named parameters at their defaults (R47, R500, R9). -/
def State.reset : State := State.construct Params.defaults

end Sys2Proof.Machine
end

