-- ==== Sys2Proof/Machine/Ops.lean ====
section
/-! DEFINITION. The named operations over memory and registers (00_scope.md R13, R16; 20_memory.md), and the interrupt
controller: Trigger, Deliver, the drain of pending, the boundary dispatch, and the return from an interrupt
(60_exceptions.md; 40_execution.md R156; 45_control_interrupt.md R284). -/

namespace Sys2Proof.Machine

/-! ## Memory -/

/-- The addresses rise strictly from at least `lo`, are below 65536, and no listed word is 0. -/
def Memory.wfFrom : Nat → Memory → Bool
  | _, [] => true
  | lo, (k, v) :: rest => decide (lo ≤ k) && decide (k < 65536) && decide (v ≠ 0#16) && Memory.wfFrom (k + 1) rest

/-- The canonical form of memory: strictly rising addresses of the address space, no word equal to what an unlisted address
reads as. -/
def Memory.wf (m : Memory) : Bool := Memory.wfFrom 0 m

/-- The word listed for the address `k`, or 0, the reset contents (R47), when none is. -/
def Memory.lookup (k : Nat) : Memory → Word
  | [] => 0#16
  | (k', v) :: rest => if k' = k then v else Memory.lookup k rest

/-- `MemRead(addr, 1)` (R13). -/
def Memory.read (m : Memory) (addr : Word) : Word := Memory.lookup addr.toNat m

/-- Set the word at address `k`, keeping the canonical form: writing 0 removes the entry. -/
def Memory.update (k : Nat) (v : Word) : Memory → Memory
  | [] => if v = 0#16 then [] else [(k, v)]
  | (k', v') :: rest =>
    if k < k' then (if v = 0#16 then (k', v') :: rest else (k, v) :: (k', v') :: rest)
    else if k = k' then (if v = 0#16 then rest else (k, v) :: rest)
    else (k', v') :: Memory.update k v rest

/-- `MemWrite(addr, 1, v)` (R13). -/
def Memory.write (m : Memory) (addr v : Word) : Memory := Memory.update addr.toNat v m

/-- Write consecutive words from `base` on, the addresses taken modulo 65536 (R77), in order. -/
def Memory.writeBlock (m : Memory) (base : Word) : List Word → Memory
  | [] => m
  | v :: vs => Memory.writeBlock (m.write base v) (base + 1) vs

/-- The `n` words from `base` on, the addresses taken modulo 65536 (R77). -/
def Memory.readBlock (m : Memory) (base : Word) : Nat → List Word
  | 0 => []
  | n + 1 => m.read base :: Memory.readBlock m (base + 1) n

/-- The memory image as a list of words from address `k` on (R504). -/
def Memory.toWordsFrom (m : Memory) (k : Nat) : Nat → List Word
  | 0 => []
  | n + 1 => Memory.lookup k m :: Memory.toWordsFrom m (k + 1) n

/-- All 65536 words of memory, M[0] first (R504). -/
def Memory.toWords (m : Memory) : List Word := m.toWordsFrom 0 65536

/-- The memory that holds the given words from address `k` on, and 0 elsewhere. -/
def Memory.ofWordsFrom (k : Nat) : List Word → Memory
  | [] => []
  | v :: vs => if v = 0#16 then Memory.ofWordsFrom (k + 1) vs else (k, v) :: Memory.ofWordsFrom (k + 1) vs

/-- The memory whose image is the given words (R505). -/
def Memory.ofWords (ws : List Word) : Memory := Memory.ofWordsFrom 0 ws

/-! ## Registers -/

/-- `x[r]` (R13). -/
def readReg (g : GenRegs) : Reg → Word
  | .a => g.a | .b => g.b | .c => g.c | .x => g.x | .y => g.y | .z => g.z | .i => g.i | .j => g.j

/-- `x[r] <- v` (R13). -/
def writeReg (g : GenRegs) (r : Reg) (v : Word) : GenRegs :=
  match r with
  | .a => { g with a := v }
  | .b => { g with b := v }
  | .c => { g with c := v }
  | .x => { g with x := v }
  | .y => { g with y := v }
  | .z => { g with z := v }
  | .i => { g with i := v }
  | .j => { g with j := v }

/-- Read a general register. -/
def State.reg (s : State) (r : Reg) : Word := readReg s.gen r

/-- Write a general register. -/
def State.setReg (s : State) (r : Reg) (v : Word) : State := { s with gen := writeReg s.gen r v }

/-- Read memory. -/
def State.read (s : State) (addr : Word) : Word := s.mem.read addr

/-- Write memory. -/
def State.write (s : State) (addr v : Word) : State := { s with mem := s.mem.write addr v }

/-- `PC <- v` (R13). -/
def State.setPc (s : State) (v : Word) : State := { s with pc := v }

/-- Move PC past `n` words of the instruction stream; PC wraps (R32, R142). -/
def State.advancePc (s : State) (n : Nat) : State := { s with pc := s.pc + BitVec.ofNat 16 n }

/-- `SP <- v` (R13). -/
def State.setSp (s : State) (v : Word) : State := { s with sp := v }

/-- `EX <- v` (R13). -/
def State.setEx (s : State) (v : Word) : State := { s with ex := v }

/-- `IA <- v` (R13). -/
def State.setIa (s : State) (v : Word) : State := { s with ia := v }

/-- Set the flag `queueing` (R36). -/
def State.setQueueing (s : State) (q : Bool) : State := { s with queueing := q }

/-- Add the cost of the instruction to the cycle counter (R39, R157 step 3, R159). -/
def State.charge (s : State) (cost : Nat) : State := { s with cycles := s.cycles + cost }

/-- `Push(v)`: SP is decremented, then the word is written at the new SP (R16). -/
def State.push (s : State) (v : Word) : State := (s.setSp (s.sp - 1)).write (s.sp - 1) v

/-- The word that `Pop()` answers: the one at SP (R16). -/
def State.top (s : State) : Word := s.read s.sp

/-- What `Pop()` does to the state: SP is incremented (R16). -/
def State.drop (s : State) : State := s.setSp (s.sp + 1)

/-! ## Interrupts -/

/-- `Deliver(m)`: taking an interrupt (R457, R460). PC and then A are pushed, queueing is set, PC takes IA and A the
message. -/
def State.deliver (s : State) (m : Word) : State :=
  ((((s.push s.pc).push s.gen.a).setQueueing true).setPc s.ia).setReg .a m

/-- Append a message to the queue, and set on_fire when that makes it longer than 256 (R455, R456). -/
def State.enqueue (s : State) (m : Word) : State :=
  { s with
    queue := s.queue ++ [m],
    onFire := s.onFire || decide (Params.queueFireBound < (s.queue ++ [m]).length) }

/-- `Trigger(m)`: the interrupt procedure (R455). -/
def State.trigger (s : State) (m : Word) : State :=
  if !s.powered then s
  else if s.ia = 0#16 then s
  else
    let s := { s with wakeReq := true }
    if s.queueing then s.enqueue m else s.deliver m

/-- `Trigger` for each of several messages, in order (R453). -/
def State.triggerAll (s : State) : List Word → State
  | [] => s
  | m :: ms => State.triggerAll (s.trigger m) ms

/-- Append requests to `pending` (R156, R281, R308). -/
def State.request (s : State) (ms : List Word) : State := { s with pending := s.pending ++ ms }

/-- The end of an instruction: every request of `pending` is performed, in order, and `pending` is empty (R156, R157
step 3). -/
def State.drainPending (s : State) : State := { s.triggerAll s.pending with pending := [] }

/-- The boundary dispatch: with queueing off the head of the queue is taken, and delivered or, when IA is 0, discarded
(R458, R157 step 1). -/
def State.dispatch (s : State) : State :=
  match s.queue with
  | [] => s
  | m :: q =>
    if s.queueing then s
    else
      let s := { s with queue := q }
      if s.ia = 0#16 then s else s.deliver m

/-- The return from an interrupt: queueing is cleared, A and then PC are popped (R284, R461). -/
def State.returnFromInterrupt (s : State) : State :=
  let s := s.setQueueing false
  let a := s.top
  let s := s.drop.setReg .a a
  let pc := s.top
  s.drop.setPc pc

end Sys2Proof.Machine
end

