-- ==== Sys2Proof/Machine/Operands.lean ====
section
/-! DEFINITION. Operand locations and their resolution (00_scope.md R14; 40_execution.md R144 to R150), the instruction
templates of R151, and the skip of a failed conditional (R154). A meaning starts where the CPU has fetched the first word
and PC is past it (R142); resolving an operand moves PC past the next word it reads. -/

namespace Sys2Proof.Machine

/-- An operand location (R14). -/
inductive Loc where
  | reg (r : Reg)
  | sp
  | pc
  | ex
  | mem (addr : Word)
  | lit (v : Word)
  deriving DecidableEq, Repr

/-- `Read(loc)` (R14). -/
def State.readLoc (s : State) : Loc → Word
  | .reg r => s.reg r
  | .sp => s.sp
  | .pc => s.pc
  | .ex => s.ex
  | .mem addr => s.read addr
  | .lit v => v

/-- `Write(loc, v)`; a literal discards it (R14, R109, R149). -/
def State.writeLoc (s : State) (l : Loc) (v : Word) : State :=
  match l with
  | .reg r => s.setReg r v
  | .sp => s.setSp v
  | .pc => s.setPc v
  | .ex => s.setEx v
  | .mem addr => s.write addr v
  | .lit _ => s

/-- The location of a shared operand form in a state (R146). Next words are used as full words (R108). -/
def operandLoc (s : State) : Operand → Loc
  | .reg r => .reg r
  | .ind r => .mem (s.reg r)
  | .idx r n => .mem (s.reg r + n)
  | .peek => .mem s.sp
  | .pick n => .mem (s.sp + n)
  | .sp => .sp
  | .pc => .pc
  | .ex => .ex
  | .abs n => .mem n
  | .lit n => .lit n

/-- The location of an a operand; POP's is the cell at the old SP (R146). -/
def srcLoc (s : State) : SrcOperand → Loc
  | .common o => operandLoc s o
  | .pop => .mem s.sp
  | .short v => .lit v

/-- The location of a b operand; PUSH's is the cell at the new SP (R147). -/
def dstLoc (s : State) : DstOperand → Loc
  | .common o => operandLoc s o
  | .push => .mem (s.sp - 1)

/-- The state after an a operand is resolved: PC past its next word, and POP has incremented SP (R146). -/
def srcAfter (s : State) (a : SrcOperand) : State :=
  match a with
  | .common o => s.advancePc o.nextWords.length
  | .pop => s.setSp (s.sp + 1)
  | .short _ => s

/-- The state after a b operand is resolved: PC past its next word, and PUSH has decremented SP (R147). -/
def dstAfter (s : State) (b : DstOperand) : State :=
  match b with
  | .common o => s.advancePc o.nextWords.length
  | .push => s.setSp (s.sp - 1)

/-- What resolving the operand of a special instruction gives (R145): location, value, lookup cycles, and the state. -/
structure ResolvedSrc where
  aloc : Loc
  av : Word
  cost : Nat
  st : State
  deriving DecidableEq, Repr

/-- `ResolveA` (R146). The lookup cycles are 1 for the codes that read a next word (R117). -/
def resolveA (a : SrcOperand) (s : State) : ResolvedSrc :=
  let l := srcLoc s a
  let t := srcAfter s a
  { aloc := l, av := t.readLoc l, cost := a.nextWords.length, st := t }

/-- What resolving both operands of a basic instruction gives (R145, R147): the value of a, the location of b, its old
value, the lookup cycles of both, and the state. -/
structure Resolved where
  av : Word
  bloc : Loc
  bv : Word
  cost : Nat
  st : State
  deriving DecidableEq, Repr

/-- `ResolveA` and then `ResolveB`: a is handled completely before b (R144, R146, R147). -/
def resolve (b : DstOperand) (a : SrcOperand) (s : State) : Resolved :=
  let ra := resolveA a s
  let l := dstLoc ra.st b
  let t := dstAfter ra.st b
  { av := ra.av, bloc := l, bv := t.readLoc l, cost := ra.cost + b.nextWords.length, st := t }

/-! ## Instruction templates (R151) -/

/-- An instruction that writes a result to b and leaves EX alone. -/
def storeResult (base : Nat) (f : (bv av : Word) → Word) (b : DstOperand) (a : SrcOperand) (s : State) :
    Host.Outcome State Fault Refusal :=
  let o := resolve b a s
  .next ((o.st.writeLoc o.bloc (f o.bv o.av)).charge (base + o.cost))

/-- An instruction that writes a result to b and EX. EX is written first and the destination last (R149). -/
def storeResultEx (base : Nat) (f : (bv av ex : Word) → Word × Word) (b : DstOperand) (a : SrcOperand) (s : State) :
    Host.Outcome State Fault Refusal :=
  let o := resolve b a s
  let r := f o.bv o.av o.st.ex
  .next (((o.st.setEx r.2).writeLoc o.bloc r.1).charge (base + o.cost))

/-- `Skip()` (R154): from `pc` on, pass over instructions up to and including the first that is no conditional; the answer
is the new PC and the number passed over. PC takes at most 65536 values, so a chain of 65536 conditionals never ends:
then there is no answer (log entry 9). -/
def skipFrom (m : Memory) : (fuel : Nat) → (pc : Word) → Option (Word × Nat)
  | 0, _ => none
  | n + 1, pc =>
    let w := m.read pc
    let next := pc + BitVec.ofNat 16 (wordLength w)
    if isConditionalWord w then (skipFrom m n next).map (fun r => (r.1, r.2 + 1)) else some (next, 1)

/-- `Skip()` at the current PC. -/
def State.skip (s : State) : Option (Word × Nat) := skipFrom s.mem 65536 s.pc

/-- A conditional (R250): both operands are resolved whatever the test says; when it fails the next instruction is
skipped, and an endless skip leaves the instruction stuck (R154). -/
def conditional (test : (bv av : Word) → Bool) (b : DstOperand) (a : SrcOperand) (s : State) :
    Host.Outcome State Fault Refusal :=
  let o := resolve b a s
  if test o.bv o.av then .next (o.st.charge (2 + o.cost))
  else
    match o.st.skip with
    | some (pc, k) => .next ((o.st.setPc pc).charge (2 + o.cost + k))
    | none => .fault .endlessSkip

/-- A reserved opcode (R155): PC moves past the whole instruction, `n` next words, at cost 1; no operand is resolved. -/
def reservedNoOp (n : Nat) (s : State) : Host.Outcome State Fault Refusal := .next ((s.advancePc n).charge 1)

end Sys2Proof.Machine
end

