-- ==== Sys2Proof/Machine/Arithmetic.lean ====
section
/-! DEFINITION. Data movement and arithmetic (41_arithmetic.md). -/

namespace Sys2Proof.Machine

/-- SET b, a: copy (R190). -/
def execSet (b : DstOperand) (a : SrcOperand) (s : State) : Host.Outcome State Fault Refusal :=
  storeResult 1 (fun _ av => av) b a s

/-- ADD b, a (R191). -/
def execAdd (b : DstOperand) (a : SrcOperand) (s : State) : Host.Outcome State Fault Refusal :=
  storeResultEx 2 (fun bv av _ => addFlags bv av) b a s

/-- SUB b, a (R192). -/
def execSub (b : DstOperand) (a : SrcOperand) (s : State) : Host.Outcome State Fault Refusal :=
  storeResultEx 2 (fun bv av _ => subFlags bv av) b a s

/-- MUL b, a (R193). -/
def execMul (b : DstOperand) (a : SrcOperand) (s : State) : Host.Outcome State Fault Refusal :=
  storeResultEx 2 (fun bv av _ => mulFlags bv av) b a s

/-- MLI b, a (R194). -/
def execMli (b : DstOperand) (a : SrcOperand) (s : State) : Host.Outcome State Fault Refusal :=
  storeResultEx 2 (fun bv av _ => mliFlags bv av) b a s

/-- DIV b, a (R195). -/
def execDiv (b : DstOperand) (a : SrcOperand) (s : State) : Host.Outcome State Fault Refusal :=
  storeResultEx 3 (fun bv av _ => divFlags bv av) b a s

/-- DVI b, a, for a value of the parameter DVI_OVERFLOW (R196): under `fault`, -32768 by -1 has no successor state (D10). -/
def dviWith (p : DviOverflow) (b : DstOperand) (a : SrcOperand) (s : State) : Host.Outcome State Fault Refusal :=
  match p with
  | .mathematical => storeResultEx 3 (fun bv av _ => dviFlags bv av) b a s
  | .fault =>
    if dviOverflows (resolve b a s).bv (resolve b a s).av then .refused .dviOverflow
    else storeResultEx 3 (fun bv av _ => dviFlags bv av) b a s

/-- DVI b, a (R196). -/
def execDvi (b : DstOperand) (a : SrcOperand) (s : State) : Host.Outcome State Fault Refusal :=
  dviWith s.params.dviOverflow b a s

/-- MOD b, a (R197). -/
def execMod (b : DstOperand) (a : SrcOperand) (s : State) : Host.Outcome State Fault Refusal :=
  storeResult 3 modResult b a s

/-- MDI b, a (R198). -/
def execMdi (b : DstOperand) (a : SrcOperand) (s : State) : Host.Outcome State Fault Refusal :=
  storeResult 3 mdiResult b a s

/-- ADX b, a (R199). -/
def execAdx (b : DstOperand) (a : SrcOperand) (s : State) : Host.Outcome State Fault Refusal :=
  storeResultEx 3 adxFlags b a s

/-- SBX b, a (R200). -/
def execSbx (b : DstOperand) (a : SrcOperand) (s : State) : Host.Outcome State Fault Refusal :=
  storeResultEx 3 (sbxFlags s.params.sbxExSigned) b a s

end Sys2Proof.Machine
end

