-- ==== Sys2Proof/Machine/Bitwise.lean ====
section
/-! DEFINITION. Bitwise logic and shifts (42_bitwise_shift.md). -/

namespace Sys2Proof.Machine

/-- AND b, a (R230). -/
def execAnd (b : DstOperand) (a : SrcOperand) (s : State) : Host.Outcome State Fault Refusal :=
  storeResult 1 (fun bv av => bv &&& av) b a s

/-- BOR b, a (R231). -/
def execBor (b : DstOperand) (a : SrcOperand) (s : State) : Host.Outcome State Fault Refusal :=
  storeResult 1 (fun bv av => bv ||| av) b a s

/-- XOR b, a (R232). -/
def execXor (b : DstOperand) (a : SrcOperand) (s : State) : Host.Outcome State Fault Refusal :=
  storeResult 1 (fun bv av => bv ^^^ av) b a s

/-- SHR b, a (R233). -/
def execShr (b : DstOperand) (a : SrcOperand) (s : State) : Host.Outcome State Fault Refusal :=
  storeResultEx 1 (fun bv av _ => shrFlags bv av) b a s

/-- ASR b, a (R234). -/
def execAsr (b : DstOperand) (a : SrcOperand) (s : State) : Host.Outcome State Fault Refusal :=
  storeResultEx 1 (fun bv av _ => asrFlags bv av) b a s

/-- SHL b, a (R235). -/
def execShl (b : DstOperand) (a : SrcOperand) (s : State) : Host.Outcome State Fault Refusal :=
  storeResultEx 1 (fun bv av _ => shlFlags bv av) b a s

end Sys2Proof.Machine
end

