-- ==== Sys2Proof/Machine/BlockTransfer.lean ====
section
/-! DEFINITION. Block transfer (44_block_transfer.md). -/

namespace Sys2Proof.Machine

/-- Write a to b, and then add `d` to I and J (R270, R271). The operand addresses are fixed before. -/
def storeAndStep (d : Word) (b : DstOperand) (a : SrcOperand) (s : State) : Host.Outcome State Fault Refusal :=
  let o := resolve b a s
  let t := o.st.writeLoc o.bloc o.av
  let t := t.setReg .i (t.reg .i + d)
  let t := t.setReg .j (t.reg .j + d)
  .next (t.charge (2 + o.cost))

/-- STI b, a (R270). -/
def execSti (b : DstOperand) (a : SrcOperand) (s : State) : Host.Outcome State Fault Refusal :=
  storeAndStep 1 b a s

/-- STD b, a (R271). -/
def execStd (b : DstOperand) (a : SrcOperand) (s : State) : Host.Outcome State Fault Refusal :=
  storeAndStep (-1) b a s

end Sys2Proof.Machine
end

