-- ==== Sys2Proof/Machine/Conditionals.lean ====
section
/-! DEFINITION. The conditional skip instructions (43_conditional.md R250 to R258). -/

namespace Sys2Proof.Machine

/-- IFB b, a (R251). -/
def execIfb (b : DstOperand) (a : SrcOperand) (s : State) : Host.Outcome State Fault Refusal :=
  conditional testIfb b a s

/-- IFC b, a (R252). -/
def execIfc (b : DstOperand) (a : SrcOperand) (s : State) : Host.Outcome State Fault Refusal :=
  conditional testIfc b a s

/-- IFE b, a (R253). -/
def execIfe (b : DstOperand) (a : SrcOperand) (s : State) : Host.Outcome State Fault Refusal :=
  conditional testIfe b a s

/-- IFN b, a (R254). -/
def execIfn (b : DstOperand) (a : SrcOperand) (s : State) : Host.Outcome State Fault Refusal :=
  conditional testIfn b a s

/-- IFG b, a (R255). -/
def execIfg (b : DstOperand) (a : SrcOperand) (s : State) : Host.Outcome State Fault Refusal :=
  conditional testIfg b a s

/-- IFA b, a (R256). -/
def execIfa (b : DstOperand) (a : SrcOperand) (s : State) : Host.Outcome State Fault Refusal :=
  conditional testIfa b a s

/-- IFL b, a (R257). -/
def execIfl (b : DstOperand) (a : SrcOperand) (s : State) : Host.Outcome State Fault Refusal :=
  conditional testIfl b a s

/-- IFU b, a (R258). -/
def execIfu (b : DstOperand) (a : SrcOperand) (s : State) : Host.Outcome State Fault Refusal :=
  conditional testIfu b a s

end Sys2Proof.Machine
end

