-- ==== Sys2Proof/Machine/Control.lean ====
section
/-! DEFINITION. Subroutine call and interrupt instructions (45_control_interrupt.md). The requests of INT are performed at its end
(40_execution.md R156). -/

namespace Sys2Proof.Machine

/-- JSR a (R280): the address after the instruction is pushed, and PC takes a, which was read before the push. -/
def execJsr (a : SrcOperand) (s : State) : Host.Outcome State Fault Refusal :=
  let o := resolveA a s
  .next (((o.st.push o.st.pc).setPc o.av).charge (3 + o.cost))

/-- INT a (R281): the request is appended to pending and performed as a Trigger at the end of the instruction. -/
def execInt (a : SrcOperand) (s : State) : Host.Outcome State Fault Refusal :=
  let o := resolveA a s
  .next ((o.st.request [o.av]).charge (4 + o.cost)).drainPending

/-- IAG a (R282). -/
def execIag (a : SrcOperand) (s : State) : Host.Outcome State Fault Refusal :=
  let o := resolveA a s
  .next ((o.st.writeLoc o.aloc o.st.ia).charge (1 + o.cost))

/-- IAS a (R283). -/
def execIas (a : SrcOperand) (s : State) : Host.Outcome State Fault Refusal :=
  let o := resolveA a s
  .next ((o.st.setIa o.av).charge (1 + o.cost))

/-- RFI a (R284): a is resolved first and its value ignored. -/
def execRfi (a : SrcOperand) (s : State) : Host.Outcome State Fault Refusal :=
  let o := resolveA a s
  .next (o.st.returnFromInterrupt.charge (3 + o.cost))

/-- IAQ a (R285). -/
def execIaq (a : SrcOperand) (s : State) : Host.Outcome State Fault Refusal :=
  let o := resolveA a s
  .next ((o.st.setQueueing (decide (o.av ≠ 0#16))).charge (2 + o.cost))

end Sys2Proof.Machine
end

