-- ==== Sys2Proof/Machine/Clock.lean ====
section
/-! DEFINITION. What a run of device code answers, and the clock device (47_dev_clock_keyboard.md R330 to R337). -/

namespace Sys2Proof.Machine

/-- What a device's interrupt handler answers (R303): the CPU as the device leaves it, its requests being in `pending`
(R308); the device's new local state; and the extra cycles. -/
structure HandlerRun where
  st : State
  dev : DeviceState
  extra : Nat
  deriving DecidableEq, Repr

/-- A selector the device does not define: every state unchanged, no extra cycles (R303, D22). -/
def undefinedSelector (dev : DeviceState) (s : State) : HandlerRun := { st := s, dev := dev, extra := 0 }

/-- The clock's state at connect (R331, R501). -/
def clockReset : ClockState := { enabled := false, period := 0, ticks := 0, acc := 0, msg := 0 }

/-- The clock's interrupt handler, by the selector in A (R332, R333, R334). -/
def clockHandle (d : ClockState) (s : State) : HandlerRun :=
  match s.gen.a.toNat with
  | 0 =>
    { st := s,
      dev := .clock { d with period := s.gen.b, ticks := 0, acc := 0, enabled := decide (s.gen.b ≠ 0#16) },
      extra := 0 }
  | 1 => { st := s.setReg .c d.ticks, dev := .clock d, extra := 0 }
  | 2 => { st := s, dev := .clock { d with msg := s.gen.b }, extra := 0 }
  | _ => undefinedSelector (.clock d) s

/-- The tick period in seconds (R331, R335). -/
def clockPeriod (p : Parameters) (d : ClockState) : Rat := (d.period.toNat : Rat) / (p.clockBaseHz : Rat)

/-- How many times the loop `while acc >= P: acc <- acc - P` runs for a positive period P (R335, R379; log entry 14). -/
def wholePeriods (acc period : Rat) : Nat := (acc / period).floor.toNat

/-- The clock's per-tick update (R335): the new local state, and the `Interrupt` calls in order, one for each tick when a
message is set. -/
def clockUpdate (p : Parameters) (d : ClockState) (dt : Rat) : ClockState × List Word :=
  if !d.enabled then (d, [])
  else
    let acc := d.acc + dt
    let k := wholePeriods acc (clockPeriod p d)
    ({ d with acc := acc - (k : Rat) * clockPeriod p d, ticks := d.ticks + BitVec.ofNat 16 k },
      if d.msg = 0#16 then [] else List.replicate k d.msg)

end Sys2Proof.Machine
end

