-- ==== Sys2Proof/Machine/Display.lean ====
section
/-! DEFINITION. The display device (48_dev_display.md R370 to R386), with the pixel function a renderer samples. -/

namespace Sys2Proof.Machine

/-- The display's state at connect (R371, R501). -/
def displayReset : DisplayState := { screen := 0, font := 0, palette := 0, border := 0, visible := true, blinkAcc := 0 }

/-- The display's interrupt handler, by the selector in A (R372 to R378). -/
def displayHandle (d : DisplayState) (s : State) : HandlerRun :=
  match s.gen.a.toNat with
  | 0 => { st := s, dev := .display { d with screen := s.gen.b }, extra := 0 }
  | 1 => { st := s, dev := .display { d with font := s.gen.b }, extra := 0 }
  | 2 => { st := s, dev := .display { d with palette := s.gen.b }, extra := 0 }
  | 3 => { st := s, dev := .display { d with border := s.gen.b.setWidth 4 }, extra := 0 }
  | 4 =>
    { st := { s with mem := s.mem.writeBlock s.gen.b Params.defaultFont }, dev := .display d,
      extra := 256 }
  | 5 =>
    { st := { s with mem := s.mem.writeBlock s.gen.b s.params.defaultPalette }, dev := .display d,
      extra := 16 }
  | _ => undefinedSelector (.display d) s

/-- The display's per-tick update: `visible` is toggled once for each whole blink period (R379). -/
def displayUpdate (p : Parameters) (d : DisplayState) (dt : Rat) : DisplayState :=
  let acc := d.blinkAcc + dt
  let k := wholePeriods acc p.blinkPeriod
  { d with
    blinkAcc := acc - (k : Rat) * p.blinkPeriod,
    visible := if k % 2 = 1 then !d.visible else d.visible }

/-- What a sample of the display shows (R385). -/
inductive Picture where
  | blank
  | rgb (r g b : Nat)
  deriving DecidableEq, Repr

/-- F(i): word `i` of the font in use (R382). -/
def fontWord (d : DisplayState) (m : Memory) (i : Nat) : Word :=
  if d.font = 0#16 then Params.defaultFont.getD i 0 else m.read (d.font + BitVec.ofNat 16 i)

/-- P(i): entry `i` of the palette in use (R383). -/
def paletteWord (p : Parameters) (d : DisplayState) (m : Memory) (i : Nat) : Word :=
  if d.palette = 0#16 then p.defaultPalette.getD i 0 else m.read (d.palette + BitVec.ofNat 16 i)

/-- The colour of a palette entry: red in bits 11:8, green in 7:4, blue in 3:0 (R383). -/
def paletteColour (e : Word) : Picture :=
  .rgb (e.toNat / 256 % 16) (e.toNat / 16 % 16) (e.toNat % 16)

/-- The cell word at a column and a row (R380). -/
def cellWord (d : DisplayState) (m : Memory) (col row : Nat) : Word :=
  m.read (d.screen + BitVec.ofNat 16 (row * 32 + col))

/-- `Pixel(x, y)` (R381, R382, R385). -/
def pixel (p : Parameters) (d : DisplayState) (m : Memory) (x y : Nat) : Picture :=
  if d.screen = 0#16 then .blank
  else
    let c := (cellWord d m (x / 4) (y / 8)).toNat
    let glyph := c % 128
    let blink := c / 128 % 2 = 1
    let bg := c / 256 % 16
    let fg := c / 4096
    let cx := x % 4
    let word := (fontWord d m (2 * glyph + cx / 2)).toNat
    let byte := if cx % 2 = 0 then word / 256 else word % 256
    let on := byte / 2 ^ (y % 8) % 2 = 1
    let on := on ∧ ¬ (blink ∧ d.visible = false)
    paletteColour (paletteWord p d m (if on then fg else bg))

/-- `Border()` (R385). -/
def borderColour (p : Parameters) (d : DisplayState) (m : Memory) : Picture :=
  if d.screen = 0#16 then .blank else paletteColour (paletteWord p d m d.border.toNat)

end Sys2Proof.Machine
end

