-- ==== Sys2Proof/Machine/Floppy.lean ====
section
/-! DEFINITION. The floppy controller device (49_dev_floppy.md R400 to R419). -/

namespace Sys2Proof.Machine

/-- The state codes (R403). -/
def statusCode : FloppyStatus → Word
  | .noMedia => 0x0000
  | .ready => 0x0001
  | .readyWp => 0x0002
  | .busy => 0x0003

/-- The error codes (R404). -/
def errorCode : FloppyError → Word
  | .noError => 0x0000
  | .busy => 0x0001
  | .noMedia => 0x0002
  | .writeProtected => 0x0003
  | .eject => 0x0004
  | .badSector => 0x0005
  | .broken => 0xFFFF

/-- The floppy's state at connect (R406, R501). -/
def floppyReset : FloppyState :=
  { status := .noMedia, error := .noError, msg := 0, head := 0, medium := none, op := none }

/-- `SectorRead(m, s)`: the block, or zeros when the sector was never written (R405). -/
def sectorRead (p : Parameters) (m : Medium) (sector : Nat) : List Word :=
  match m.data.lookup sector with
  | some blk => blk
  | none => List.replicate p.floppySectorWords 0#16

/-- Set the block of a sector in a map with strictly rising sector numbers. -/
def setSector (sector : Nat) (blk : List Word) : List (Nat × List Word) → List (Nat × List Word)
  | [] => [(sector, blk)]
  | (k, b) :: rest =>
    if sector < k then (sector, blk) :: (k, b) :: rest
    else if sector = k then (sector, blk) :: rest
    else (k, b) :: setSector sector blk rest

/-- `SectorWrite(m, s, blk)` (R405). -/
def sectorWrite (m : Medium) (sector : Nat) (blk : List Word) : Medium :=
  { m with data := setSector sector blk m.data }

/-- The state of a controller without a transfer: NO_MEDIA without a medium, else READY_WP or READY (R406). -/
def idleStatus : Option Medium → FloppyStatus
  | none => .noMedia
  | some m => if m.wp then .readyWp else .ready

/-- The track of a sector (R401). -/
def trackOf (p : Parameters) (sector : Nat) : Nat := sector / p.floppySectorsPerTrack

/-- The distance between two tracks. -/
def trackDistance (t head : Nat) : Nat := if t ≤ head then head - t else t - head

/-- `Delay(t)` (R402). -/
def floppyDelay (p : Parameters) (d : FloppyState) (t : Nat) : Rat :=
  p.floppySeekTimePerTrack * (trackDistance t d.head : Rat) + p.floppySectorTime

/-- `SetStatus(s, e)` (R407): the new local state, and one `Interrupt` call when the pair changes and a message is set. -/
def setStatus (d : FloppyState) (st : FloppyStatus) (e : FloppyError) : FloppyState × List Word :=
  ({ d with status := st, error := e },
    if (st, e) ≠ (d.status, d.error) ∧ d.msg ≠ 0#16 then [d.msg] else [])

/-- A SetStatus inside the handler, followed by `B <- b`: its `Interrupt` call goes to `pending` (R308, R407). -/
def reportStatus (d : FloppyState) (st : FloppyStatus) (e : FloppyError) (b : Word) (s : State) : HandlerRun :=
  let r := setStatus d st e
  { st := (s.request r.2).setReg .b b, dev := .floppy r.1, extra := 0 }

/-- Start a transfer of sector X at address Y (R409, R410): busy, B = 1, nothing copied yet. -/
def startTransfer (kind : TransferKind) (d : FloppyState) (s : State) : HandlerRun :=
  let sector := s.gen.x.toNat
  let t := trackOf s.params sector
  let op : Transfer := { kind := kind, sector := sector, addr := s.gen.y, track := t, remaining := floppyDelay s.params d t }
  reportStatus { d with op := some op } .busy d.error 1 s

/-- Selector 0, poll (R408): the error is cleared without an interrupt. -/
def floppyPoll (d : FloppyState) (s : State) : HandlerRun :=
  { st := (s.setReg .b (statusCode d.status)).setReg .c (errorCode d.error),
    dev := .floppy { d with error := .noError }, extra := 0 }

/-- Selector 2, read sector X into memory at Y (R409). -/
def floppyStartRead (d : FloppyState) (s : State) : HandlerRun :=
  if d.status = .busy then reportStatus d d.status .busy 0 s
  else if d.status = .noMedia then reportStatus d d.status .noMedia 0 s
  else if s.params.floppySectors ≤ s.gen.x.toNat then reportStatus d d.status .badSector 0 s
  else startTransfer .read d s

/-- Selector 3, write memory at Y to sector X (R410). -/
def floppyStartWrite (d : FloppyState) (s : State) : HandlerRun :=
  if d.status = .busy then reportStatus d d.status .busy 0 s
  else if d.status = .noMedia then reportStatus d d.status .noMedia 0 s
  else if d.status = .readyWp then reportStatus d d.status .writeProtected 0 s
  else if s.params.floppySectors ≤ s.gen.x.toNat then reportStatus d d.status .badSector 0 s
  else startTransfer .write d s

/-- The floppy's interrupt handler, by the selector in A (R408 to R413). -/
def floppyHandle (d : FloppyState) (s : State) : HandlerRun :=
  match s.gen.a.toNat with
  | 0 => floppyPoll d s
  | 1 => { st := s, dev := .floppy { d with msg := s.gen.x }, extra := 0 }
  | 2 => floppyStartRead d s
  | 3 => floppyStartWrite d s
  | _ => undefinedSelector (.floppy d) s

/-- CancelPending (R414): no interrupt, no transfer. -/
def floppyCancel (d : FloppyState) : FloppyState :=
  match d.op with
  | none => d
  | some _ => { d with op := none, status := idleStatus d.medium }

/-- What a completing transfer does to the medium and the memory (R415): one sector is copied. -/
def floppyCopy (p : Parameters) (op : Transfer) (med : Option Medium) (m : Memory) : Option Medium × Memory :=
  match med, op.kind with
  | none, _ => (none, m)
  | some d, .read => (some d, m.writeBlock op.addr (sectorRead p d op.sector))
  | some d, .write => (some (sectorWrite d op.sector (m.readBlock op.addr p.floppySectorWords)), m)

/-- What an update of the floppy answers: local state, memory, and the `Interrupt` calls after them. -/
structure FloppyRun where
  dev : FloppyState
  mem : Memory
  requests : List Word
  deriving DecidableEq, Repr

/-- The floppy's per-tick update and completion (R415). -/
def floppyUpdate (p : Parameters) (d : FloppyState) (dt : Rat) (m : Memory) : FloppyRun :=
  match d.op with
  | none => { dev := d, mem := m, requests := [] }
  | some op =>
    let remaining := op.remaining - dt
    if 0 < remaining then { dev := { d with op := some { op with remaining := remaining } }, mem := m, requests := [] }
    else
      let c := floppyCopy p op d.medium m
      let r := setStatus { d with medium := c.1, head := op.track, op := none } (idleStatus c.1) d.error
      { dev := r.1, mem := c.2, requests := r.2 }

/-- Insert (R416), where no medium is present. -/
def floppyInsert (d : FloppyState) (m : Medium) : FloppyState × List Word :=
  setStatus { d with medium := some m } (idleStatus (some m)) d.error

/-- Eject (R417), where a medium is present: a transfer is abandoned with ERROR_EJECT. -/
def floppyEject (d : FloppyState) : FloppyState × List Word :=
  match d.op with
  | some _ => setStatus { d with medium := none, op := none } .noMedia .eject
  | none => setStatus { d with medium := none } .noMedia d.error

/-- The sector numbers of a map rise strictly from at least `lo`, lie on the disk, and each block has one sector's
words (R405). -/
def sectorsWf (p : Parameters) : Nat → List (Nat × List Word) → Bool
  | _, [] => true
  | lo, (k, blk) :: rest =>
    decide (lo ≤ k) && decide (k < p.floppySectors) && decide (blk.length = p.floppySectorWords) &&
      sectorsWf p (k + 1) rest

/-- A medium as R405 describes it. -/
def mediumWf (p : Parameters) (m : Medium) : Bool := sectorsWf p 0 m.data

end Sys2Proof.Machine
end

