-- ==== Sys2Proof/Machine/Keyboard.lean ====
section
/-! DEFINITION. The keyboard device (47_dev_clock_keyboard.md R345 to R353). -/

namespace Sys2Proof.Machine

/-- The keys of the device-code table (R350). -/
inductive Key where
  | backspace
  | enter
  | insert
  | delete
  | ascii (c : Word)
  | arrowUp
  | arrowDown
  | arrowLeft
  | arrowRight
  | shift
  | control
  | alt
  deriving DecidableEq, Repr

/-- The device codes (R350). -/
def keyCode (p : Parameters) : Key → Word
  | .backspace => 0x10
  | .enter => 0x11
  | .insert => 0x12
  | .delete => 0x13
  | .ascii c => c
  | .arrowUp => 0x80
  | .arrowDown => 0x81
  | .arrowLeft => 0x82
  | .arrowRight => 0x83
  | .shift => 0x90
  | .control => 0x91
  | .alt => p.keyAltCode

/-- The keyboard's state at connect (R346, R501). -/
def keyboardReset : KeyboardState := { buf := [], down := [], msg := 0 }

/-- Add a code to a strictly rising list of codes; one that is there already stays once. -/
def insertCode (k : Word) : List Word → List Word
  | [] => [k]
  | x :: xs => if k.toNat < x.toNat then k :: x :: xs else if k = x then x :: xs else x :: insertCode k xs

/-- Take a code out of the set. -/
def removeCode (k : Word) (xs : List Word) : List Word := xs.filter (fun x => x != k)

/-- The keyboard's interrupt handler, by the selector in A (R347, R348, R349, R351). -/
def keyboardHandle (d : KeyboardState) (s : State) : HandlerRun :=
  match s.gen.a.toNat with
  | 0 => { st := s, dev := .keyboard { d with buf := [] }, extra := 0 }
  | 1 => { st := s.setReg .c (d.buf.headD 0#16), dev := .keyboard { d with buf := d.buf.tail }, extra := 0 }
  | 2 => { st := s.setReg .c (if d.down.contains s.gen.b then 1 else 0), dev := .keyboard d, extra := 0 }
  | 3 => { st := s, dev := .keyboard { d with msg := s.gen.b }, extra := 0 }
  | _ => undefinedSelector (.keyboard d) s

/-- KeyDown (R352): the code is buffered and marked down; one `Interrupt` call when a message is set. -/
def keyDown (d : KeyboardState) (k : Word) : KeyboardState × List Word :=
  ({ d with buf := d.buf ++ [k], down := insertCode k d.down }, if d.msg = 0#16 then [] else [d.msg])

/-- KeyUp (R352): the code is no longer down; the buffer stays. -/
def keyUp (d : KeyboardState) (k : Word) : KeyboardState := { d with down := removeCode k d.down }

end Sys2Proof.Machine
end

