-- ==== Sys2Proof/Machine/Bus.lean ====
section
/-! DEFINITION. The device bus (46_hardware_bus.md): the device contract for every kind of device, identities, and the
dispatch of a hardware interrupt into the addressed device. -/

namespace Sys2Proof.Machine

/-! ## What a device may touch (R307) -/

/-- Write one of the twelve registers. -/
def State.writeCpuReg (s : State) (r : CpuReg) (v : Word) : State :=
  match r with
  | .gen g => s.setReg g v
  | .pc => s.setPc v
  | .sp => s.setSp v
  | .ex => s.setEx v
  | .ia => s.setIa v

/-- One event of a device: a register or memory write, or an `Interrupt` call, which `interrupt` performs (R307). -/
def State.deviceEvent (interrupt : State → Word → State) (s : State) : DeviceEvent → State
  | .writeReg r v => s.writeCpuReg r v
  | .writeMem addr v => s.write addr v
  | .interrupt m => interrupt s m

/-- An event inside an HWI handler: an `Interrupt` goes to `pending` (R308). -/
def State.handlerEvent (s : State) (e : DeviceEvent) : State := s.deviceEvent (fun s m => s.request [m]) e

/-- An event in a host action: an `Interrupt` is a Trigger, performed at once (R301, R309). It does nothing to an unpowered
CPU (R511). -/
def State.hostEvent (s : State) (e : DeviceEvent) : State := if s.powered then s.deviceEvent State.trigger e else s

/-- A run of the code of a device that is none of the four, of at most `n` events, each performed by `perform`. Before each,
the code sees the registers and the memory as they are then (R303, R307; log entry 11). -/
def runForeign (perform : State → DeviceEvent → State) (entry : DeviceEntry) : (n : Nat) → ForeignState → State → HandlerRun
  | 0, d, s => { st := s, dev := .foreign d, extra := 0 }
  | n + 1, d, s =>
    match Config.foreignMove d.model entry d.locals s.cpuRegs s.mem with
    | .act e locals => runForeign perform entry n { d with locals := locals } (perform s e)
    | .finish locals extra => { st := s, dev := .foreign { d with locals := locals }, extra := extra }

/-- A whole run of the code of such a device. -/
def foreignRun (perform : State → DeviceEvent → State) (entry : DeviceEntry) (d : ForeignState) (s : State) : HandlerRun :=
  runForeign perform entry (Config.foreignBound d.model entry d.locals s.cpuRegs s.mem) d s

/-- The handler of a device that is none of the four (R303): a selector it does not define is a no-op (D22); else what it
does is free within R307 (log entry 11). -/
def foreignHandle (d : ForeignState) (s : State) : HandlerRun :=
  if d.selectors.contains s.gen.a then foreignRun State.handlerEvent .handle d s else undefinedSelector (.foreign d) s

/-- `d.handle(cpu)` (R303, R306). -/
def deviceHandle (d : DeviceState) (s : State) : HandlerRun :=
  match d with
  | .clock c => clockHandle c s
  | .keyboard k => keyboardHandle k s
  | .display v => displayHandle v s
  | .floppy f => floppyHandle f s
  | .foreign f => foreignHandle f s

/-- CancelPending of a device (R302, R414, R511). The clock, the keyboard and the display have no deferred completion. -/
def deviceCancel (d : DeviceState) : DeviceState :=
  match d with
  | .clock c => .clock c
  | .keyboard k => .keyboard k
  | .display v => .display v
  | .floppy f => .floppy (floppyCancel f)
  | .foreign f => .foreign { f with locals := Config.foreignCancel f.model f.locals }

/-! ## The instructions' view of the bus -/

/-- The identity a slot reports; the placeholder's is all zero (R305, R310). -/
def slotIdentity : Slot → Identity
  | .connected d => d.ident
  | .disconnected => { id := 0, version := 0, manufacturer := 0 }

/-- Bits 15:0 of a 32-bit value (R73, R305). -/
def lowWord (d : DoubleWord) : Word := BitVec.ofNat 16 d.toNat

/-- Bits 31:16 of a 32-bit value (R73, R305). -/
def highWord (d : DoubleWord) : Word := BitVec.ofNat 16 (d.toNat / 65536)

/-- HWQ's effect for the hardware id `h` (R305); an id that names no slot has none (D16). -/
def State.hardwareQuery (s : State) (h : Word) : State :=
  match s.slots[h.toNat]? with
  | some slot =>
    let d := slotIdentity slot
    ((((s.setReg .a (lowWord d.id)).setReg .b (highWord d.id)).setReg .c d.version).setReg .x
      (lowWord d.manufacturer)).setReg .y (highWord d.manufacturer)
  | none => s

/-- Replace the local state of the device in a slot. -/
def State.setDeviceState (s : State) (h : Nat) (d : Device) (ds : DeviceState) : State :=
  { s with slots := s.slots.set h (.connected { d with state := ds }) }

/-- HWI's effect for the hardware id `h`, and the extra cycles (R306): the device's handler runs; a placeholder or an id
that names no slot does nothing (R310, D16). -/
def State.hardwareInterrupt (s : State) (h : Word) : State × Nat :=
  match s.slots[h.toNat]? with
  | some (.connected d) =>
    let r := deviceHandle d.state s
    (r.st.setDeviceState h.toNat d r.dev, r.extra)
  | some .disconnected => (s, 0)
  | none => (s, 0)

end Sys2Proof.Machine
end

