-- ==== Sys2Proof/Machine/Hardware.lean ====
section
/-! DEFINITION. The hardware instructions (46_hardware_bus.md R304 to R306). What a handler requests is performed at the end of HWI
(R308). -/

namespace Sys2Proof.Machine

/-- HWN a (R304): the number of slots, placeholders included, modulo 65536. -/
def execHwn (a : SrcOperand) (s : State) : Host.Outcome State Fault Refusal :=
  let o := resolveA a s
  .next ((o.st.writeLoc o.aloc (BitVec.ofNat 16 o.st.slots.length)).charge (2 + o.cost))

/-- HWQ a (R305). -/
def execHwq (a : SrcOperand) (s : State) : Host.Outcome State Fault Refusal :=
  let o := resolveA a s
  .next ((o.st.hardwareQuery o.av).charge (4 + o.cost))

/-- HWI a (R306): the addressed device's handler runs with PC past the instruction. -/
def execHwi (a : SrcOperand) (s : State) : Host.Outcome State Fault Refusal :=
  let o := resolveA a s
  let r := o.st.hardwareInterrupt o.av
  .next (r.1.charge (4 + o.cost + r.2)).drainPending

end Sys2Proof.Machine
end

