-- ==== Sys2Proof/Machine/Reserved.lean ====
section
/-! DEFINITION. The reserved opcodes (30_encoding.md R113, R114; 40_execution.md R155): each a no-op of cost 1 that passes over the whole
instruction. Their operands are not resolved. -/

namespace Sys2Proof.Machine

/-- Reserved basic opcode 0x18 (R155). -/
def execReservedBasic18 (b : DstOperand) (a : SrcOperand) (s : State) : Host.Outcome State Fault Refusal :=
  reservedNoOp (a.nextWords.length + b.nextWords.length) s

/-- Reserved basic opcode 0x19 (R155). -/
def execReservedBasic19 (b : DstOperand) (a : SrcOperand) (s : State) : Host.Outcome State Fault Refusal :=
  reservedNoOp (a.nextWords.length + b.nextWords.length) s

/-- Reserved basic opcode 0x1C (R155). -/
def execReservedBasic1C (b : DstOperand) (a : SrcOperand) (s : State) : Host.Outcome State Fault Refusal :=
  reservedNoOp (a.nextWords.length + b.nextWords.length) s

/-- Reserved basic opcode 0x1D (R155). -/
def execReservedBasic1D (b : DstOperand) (a : SrcOperand) (s : State) : Host.Outcome State Fault Refusal :=
  reservedNoOp (a.nextWords.length + b.nextWords.length) s

/-- Reserved special opcode 0x00 (R155). -/
def execReservedSpecial00 (a : SrcOperand) (s : State) : Host.Outcome State Fault Refusal :=
  reservedNoOp a.nextWords.length s

/-- Reserved special opcode 0x02 (R155). -/
def execReservedSpecial02 (a : SrcOperand) (s : State) : Host.Outcome State Fault Refusal :=
  reservedNoOp a.nextWords.length s

/-- Reserved special opcode 0x03 (R155). -/
def execReservedSpecial03 (a : SrcOperand) (s : State) : Host.Outcome State Fault Refusal :=
  reservedNoOp a.nextWords.length s

/-- Reserved special opcode 0x04 (R155). -/
def execReservedSpecial04 (a : SrcOperand) (s : State) : Host.Outcome State Fault Refusal :=
  reservedNoOp a.nextWords.length s

/-- Reserved special opcode 0x05 (R155). -/
def execReservedSpecial05 (a : SrcOperand) (s : State) : Host.Outcome State Fault Refusal :=
  reservedNoOp a.nextWords.length s

/-- Reserved special opcode 0x06 (R155). -/
def execReservedSpecial06 (a : SrcOperand) (s : State) : Host.Outcome State Fault Refusal :=
  reservedNoOp a.nextWords.length s

/-- Reserved special opcode 0x07 (R155). -/
def execReservedSpecial07 (a : SrcOperand) (s : State) : Host.Outcome State Fault Refusal :=
  reservedNoOp a.nextWords.length s

/-- Reserved special opcode 0x0D (R155). -/
def execReservedSpecial0D (a : SrcOperand) (s : State) : Host.Outcome State Fault Refusal :=
  reservedNoOp a.nextWords.length s

/-- Reserved special opcode 0x0E (R155). -/
def execReservedSpecial0E (a : SrcOperand) (s : State) : Host.Outcome State Fault Refusal :=
  reservedNoOp a.nextWords.length s

/-- Reserved special opcode 0x0F (R155). -/
def execReservedSpecial0F (a : SrcOperand) (s : State) : Host.Outcome State Fault Refusal :=
  reservedNoOp a.nextWords.length s

/-- Reserved special opcode 0x13 (R155). -/
def execReservedSpecial13 (a : SrcOperand) (s : State) : Host.Outcome State Fault Refusal :=
  reservedNoOp a.nextWords.length s

/-- Reserved special opcode 0x14 (R155). -/
def execReservedSpecial14 (a : SrcOperand) (s : State) : Host.Outcome State Fault Refusal :=
  reservedNoOp a.nextWords.length s

/-- Reserved special opcode 0x15 (R155). -/
def execReservedSpecial15 (a : SrcOperand) (s : State) : Host.Outcome State Fault Refusal :=
  reservedNoOp a.nextWords.length s

/-- Reserved special opcode 0x16 (R155). -/
def execReservedSpecial16 (a : SrcOperand) (s : State) : Host.Outcome State Fault Refusal :=
  reservedNoOp a.nextWords.length s

/-- Reserved special opcode 0x17 (R155). -/
def execReservedSpecial17 (a : SrcOperand) (s : State) : Host.Outcome State Fault Refusal :=
  reservedNoOp a.nextWords.length s

/-- Reserved special opcode 0x18 (R155). -/
def execReservedSpecial18 (a : SrcOperand) (s : State) : Host.Outcome State Fault Refusal :=
  reservedNoOp a.nextWords.length s

/-- Reserved special opcode 0x19 (R155). -/
def execReservedSpecial19 (a : SrcOperand) (s : State) : Host.Outcome State Fault Refusal :=
  reservedNoOp a.nextWords.length s

/-- Reserved special opcode 0x1A (R155). -/
def execReservedSpecial1A (a : SrcOperand) (s : State) : Host.Outcome State Fault Refusal :=
  reservedNoOp a.nextWords.length s

/-- Reserved special opcode 0x1B (R155). -/
def execReservedSpecial1B (a : SrcOperand) (s : State) : Host.Outcome State Fault Refusal :=
  reservedNoOp a.nextWords.length s

/-- Reserved special opcode 0x1C (R155). -/
def execReservedSpecial1C (a : SrcOperand) (s : State) : Host.Outcome State Fault Refusal :=
  reservedNoOp a.nextWords.length s

/-- Reserved special opcode 0x1D (R155). -/
def execReservedSpecial1D (a : SrcOperand) (s : State) : Host.Outcome State Fault Refusal :=
  reservedNoOp a.nextWords.length s

/-- Reserved special opcode 0x1E (R155). -/
def execReservedSpecial1E (a : SrcOperand) (s : State) : Host.Outcome State Fault Refusal :=
  reservedNoOp a.nextWords.length s

/-- Reserved special opcode 0x1F (R155). -/
def execReservedSpecial1F (a : SrcOperand) (s : State) : Host.Outcome State Fault Refusal :=
  reservedNoOp a.nextWords.length s

end Sys2Proof.Machine
end

