-- ==== Sys2Proof/Machine/Dispatch.lean ====
section
/-! DEFINITION. Every instruction's meaning, one arm each. The state is the one in which the first word has been fetched
(40_execution.md R157 step 2). -/

namespace Sys2Proof.Machine

/-- Execute one instruction whose first word has been fetched. -/
def exec (i : Instr) (s : State) : Host.Outcome State Fault Refusal :=
  match i with
  | .set b a => Sys2Proof.Machine.execSet b a s
  | .add b a => Sys2Proof.Machine.execAdd b a s
  | .sub b a => Sys2Proof.Machine.execSub b a s
  | .mul b a => Sys2Proof.Machine.execMul b a s
  | .mli b a => Sys2Proof.Machine.execMli b a s
  | .div b a => Sys2Proof.Machine.execDiv b a s
  | .dvi b a => Sys2Proof.Machine.execDvi b a s
  | .mod b a => Sys2Proof.Machine.execMod b a s
  | .mdi b a => Sys2Proof.Machine.execMdi b a s
  | .and b a => Sys2Proof.Machine.execAnd b a s
  | .bor b a => Sys2Proof.Machine.execBor b a s
  | .xor b a => Sys2Proof.Machine.execXor b a s
  | .shr b a => Sys2Proof.Machine.execShr b a s
  | .asr b a => Sys2Proof.Machine.execAsr b a s
  | .shl b a => Sys2Proof.Machine.execShl b a s
  | .ifb b a => Sys2Proof.Machine.execIfb b a s
  | .ifc b a => Sys2Proof.Machine.execIfc b a s
  | .ife b a => Sys2Proof.Machine.execIfe b a s
  | .ifn b a => Sys2Proof.Machine.execIfn b a s
  | .ifg b a => Sys2Proof.Machine.execIfg b a s
  | .ifa b a => Sys2Proof.Machine.execIfa b a s
  | .ifl b a => Sys2Proof.Machine.execIfl b a s
  | .ifu b a => Sys2Proof.Machine.execIfu b a s
  | .reservedBasic18 b a => Sys2Proof.Machine.execReservedBasic18 b a s
  | .reservedBasic19 b a => Sys2Proof.Machine.execReservedBasic19 b a s
  | .adx b a => Sys2Proof.Machine.execAdx b a s
  | .sbx b a => Sys2Proof.Machine.execSbx b a s
  | .reservedBasic1C b a => Sys2Proof.Machine.execReservedBasic1C b a s
  | .reservedBasic1D b a => Sys2Proof.Machine.execReservedBasic1D b a s
  | .sti b a => Sys2Proof.Machine.execSti b a s
  | .std b a => Sys2Proof.Machine.execStd b a s
  | .reservedSpecial00 a => Sys2Proof.Machine.execReservedSpecial00 a s
  | .jsr a => Sys2Proof.Machine.execJsr a s
  | .reservedSpecial02 a => Sys2Proof.Machine.execReservedSpecial02 a s
  | .reservedSpecial03 a => Sys2Proof.Machine.execReservedSpecial03 a s
  | .reservedSpecial04 a => Sys2Proof.Machine.execReservedSpecial04 a s
  | .reservedSpecial05 a => Sys2Proof.Machine.execReservedSpecial05 a s
  | .reservedSpecial06 a => Sys2Proof.Machine.execReservedSpecial06 a s
  | .reservedSpecial07 a => Sys2Proof.Machine.execReservedSpecial07 a s
  | .int a => Sys2Proof.Machine.execInt a s
  | .iag a => Sys2Proof.Machine.execIag a s
  | .ias a => Sys2Proof.Machine.execIas a s
  | .rfi a => Sys2Proof.Machine.execRfi a s
  | .iaq a => Sys2Proof.Machine.execIaq a s
  | .reservedSpecial0D a => Sys2Proof.Machine.execReservedSpecial0D a s
  | .reservedSpecial0E a => Sys2Proof.Machine.execReservedSpecial0E a s
  | .reservedSpecial0F a => Sys2Proof.Machine.execReservedSpecial0F a s
  | .hwn a => Sys2Proof.Machine.execHwn a s
  | .hwq a => Sys2Proof.Machine.execHwq a s
  | .hwi a => Sys2Proof.Machine.execHwi a s
  | .reservedSpecial13 a => Sys2Proof.Machine.execReservedSpecial13 a s
  | .reservedSpecial14 a => Sys2Proof.Machine.execReservedSpecial14 a s
  | .reservedSpecial15 a => Sys2Proof.Machine.execReservedSpecial15 a s
  | .reservedSpecial16 a => Sys2Proof.Machine.execReservedSpecial16 a s
  | .reservedSpecial17 a => Sys2Proof.Machine.execReservedSpecial17 a s
  | .reservedSpecial18 a => Sys2Proof.Machine.execReservedSpecial18 a s
  | .reservedSpecial19 a => Sys2Proof.Machine.execReservedSpecial19 a s
  | .reservedSpecial1A a => Sys2Proof.Machine.execReservedSpecial1A a s
  | .reservedSpecial1B a => Sys2Proof.Machine.execReservedSpecial1B a s
  | .reservedSpecial1C a => Sys2Proof.Machine.execReservedSpecial1C a s
  | .reservedSpecial1D a => Sys2Proof.Machine.execReservedSpecial1D a s
  | .reservedSpecial1E a => Sys2Proof.Machine.execReservedSpecial1E a s
  | .reservedSpecial1F a => Sys2Proof.Machine.execReservedSpecial1F a s

end Sys2Proof.Machine
end

