-- ==== Sys2Proof/Machine/Cycle.lean ====
section
/-! DEFINITION. Fetching an instruction, and the CPU step from one instruction boundary to the next (40_execution.md R142,
R143, R157). Step.lean only calls these. -/

namespace Sys2Proof.Machine

/-- The instruction whose first word is at PC (R142, R143). Its next words lie at the two following addresses, modulo
65536 (R74). Nothing is written between the fetches of an instruction's words (R83; log entry 10). -/
def State.fetch (s : State) : Instr := decodeInstr (s.read s.pc) (s.read (s.pc + 1)) (s.read (s.pc + 2))

/-- Step 3 of R157: the deferred requests are performed. -/
def finish : Host.Outcome State Fault Refusal → Host.Outcome State Fault Refusal
  | .next t => .next t.drainPending
  | .fault f => .fault f
  | .refused r => .refused r

/-- `Step()` (R157): boundary dispatch, fetch, execution, deferred requests. -/
def cpuStep (s : State) : Host.Outcome State Fault Refusal :=
  let d := s.dispatch
  finish (exec d.fetch (d.advancePc 1))

/-- A step of the machine: a CPU that is not powered executes nothing (R42, R158, D34; log entry 8). -/
def stepOnce (s : State) : Host.Outcome State Fault Refusal :=
  if s.powered then cpuStep s else .refused .executeUnpowered

/-- Store the three words of the longest instruction from an address on. -/
def State.storeWords (s : State) (addr w0 w1 w2 : Word) : State :=
  { s with mem := s.mem.writeBlock addr [w0, w1, w2] }

/-- The words at an address are the three given ones. -/
def State.holdsWords (s : State) (addr w0 w1 w2 : Word) : Bool :=
  s.read addr == w0 && s.read (addr + 1) == w1 && s.read (addr + 2) == w2

/-- `s`, powered, with three words stored where the next step fetches: at PC after the boundary dispatch (R158). When the
dispatched interrupt's two pushes would overwrite them, the dispatch is held back instead (log entry 21). -/
def State.placeWords (s : State) (w0 w1 w2 : Word) : State :=
  let s := { s with powered := true }
  let t := s.storeWords s.dispatch.pc w0 w1 w2
  if t.dispatch.holdsWords t.dispatch.pc w0 w1 w2 then t
  else { s.storeWords s.pc w0 w1 w2 with queueing := true }

/-- The instruction numbered `w` in the opcode table's numbering of bits, placed where the next step fetches. -/
def State.placeTableWord (s : State) (nbits w : Nat) : State :=
  let v := w % 2 ^ nbits
  s.placeWords (tableWordPart v 0) (tableWordPart v 1) (tableWordPart v 2)

end Sys2Proof.Machine
end

