-- ==== Sys2Proof/Machine/Snapshot.lean ====
section
/-! DEFINITION. The state snapshot (70_reset_and_hazards.md R504 to R507): its logical record, Save and Load. -/

namespace Sys2Proof.Machine

/-- The logical record of a snapshot, in the order of R504. -/
structure Snapshot where
  magic : Nat
  version : Nat
  regs : CpuRegs
  memory : List Word
  queueing : Bool
  onFire : Bool
  queueLength : Nat
  queue : List Word
  deriving DecidableEq, Repr

/-- SNAPSHOT_CODEC (R504): an encode and decode pair, decode after encode being the identity. It is an argument of the
byte forms of Save and Load (log entry 6); that trailing and missing bytes fail is asked of Load, not of the codec. -/
structure SnapshotCodec where
  encode : Snapshot → List Byte
  decode : List Byte → Option Snapshot
  decode_encode : ∀ r, decode (encode r) = some r

/-- `Save()` as the logical record (R504). cycles, wake_req, powered, slots and device state are not saved (C5). -/
def State.save (s : State) : Snapshot :=
  { magic := Config.snapshotMagic, version := Config.snapshotVersion, regs := s.cpuRegs, memory := s.mem.toWords,
    queueing := s.queueing, onFire := s.onFire, queueLength := s.queue.length, queue := s.queue }

/-- Magic and version match exactly, and the record is neither truncated nor longer than it says (R505, D30; log
entry 26). -/
def Snapshot.accepted (r : Snapshot) : Bool :=
  decide (r.magic = Config.snapshotMagic) && decide (r.version = Config.snapshotVersion) &&
    decide (r.memory.length = 65536) && decide (r.queue.length = r.queueLength)

/-- The state with the snapshot's fields replaced (R505). -/
def State.restore (s : State) (r : Snapshot) : State :=
  { s with
    gen := r.regs.gen, pc := r.regs.pc, sp := r.regs.sp, ex := r.regs.ex, ia := r.regs.ia,
    mem := Memory.ofWords r.memory,
    queueing := r.queueing, onFire := r.onFire, queue := r.queue }

/-- What Load answers: nothing, or the error it raises (R505, R507). -/
inductive LoadReply where
  | loaded
  | loadError
  deriving DecidableEq, Repr

/-- `Load` of a decoded record, or of bytes that do not decode (R505): the snapshot's fields are replaced, or LoadError is
raised and the state is exactly the one before the call (R507). -/
def State.load (s : State) (r : Option Snapshot) : State × LoadReply :=
  match r with
  | none => (s, .loadError)
  | some r => if r.accepted then (s.restore r, .loaded) else (s, .loadError)

/-- `Save() -> bytes` (R504). -/
def State.saveBytes (c : SnapshotCodec) (s : State) : List Byte := c.encode s.save

/-- `Decode(SNAPSHOT_CODEC, bytes)` as Load uses it (R505): the bytes must be exactly the encoding of a record. So bytes
that go on after a complete record, or stop within one, fail whatever the codec does with them (D30; log entry 26). -/
def SnapshotCodec.decodeExact (c : SnapshotCodec) (bytes : List Byte) : Option Snapshot :=
  (c.decode bytes).filter (fun r => c.encode r == bytes)

/-- `Load(bytes)` (R505). -/
def State.loadBytes (c : SnapshotCodec) (s : State) (bytes : List Byte) : State × LoadReply :=
  s.load (c.decodeExact bytes)

end Sys2Proof.Machine
end

