-- ==== Sys2Proof/Machine/HostActions.lean ====
section
/-! DEFINITION. The host interface (70_reset_and_hazards.md R503, R510 to R512): every host action as a function of the state
at an instruction boundary, with what it answers. -/

namespace Sys2Proof.Machine

/-! ## Queries (40_execution.md R160, R161, R163) -/

/-- `IsHalted()` (R160). -/
def State.isHalted (s : State) : Bool := s.read s.pc == Params.haltWord

/-- `IsPendingWakeUp()` (R161). -/
def State.isPendingWakeUp (s : State) : Bool := s.isHalted && s.wakeReq

/-- A slot holds a floppy with a pending completion (R414). -/
def Slot.completing : Slot → Bool
  | .connected d =>
    match d.state with
    | .floppy f => f.op.isSome
    | .clock _ | .keyboard _ | .display _ | .foreign _ => false
  | .disconnected => false

/-- The program has reached its halt (R163). -/
def State.reachedHalt (s : State) : Bool :=
  s.isHalted && (s.queueing || s.queue.isEmpty || s.ia == 0#16) && s.slots.all (fun x => !x.completing)

/-! ## Execute (40_execution.md R158) -/

/-- The loop of Execute: steps while the cycle counter is below `limit`. Every step costs at least one cycle (R157), so
the budget bounds the number of steps. -/
def executeLoop : (steps : Nat) → (limit : Nat) → State → Host.Outcome State Fault Refusal
  | 0, _, s => .next s
  | n + 1, limit, s =>
    if s.cycles < limit then
      match cpuStep s with
      | .next t => executeLoop n limit t
      | .fault f => .fault f
      | .refused r => .refused r
    else .next s

/-- `Execute(budget)` (R158): the state after it, with wake_req cleared (R161). The consumed cycles are the growth of
`cycles` (R159). -/
def State.execute (s : State) (budget : Nat) : Host.Outcome State Fault Refusal :=
  if s.powered then
    match executeLoop budget (s.cycles + budget) s with
    | .next t => .next { t with wakeReq := false }
    | .fault f => .fault f
    | .refused r => .refused r
  else .refused .executeUnpowered

/-! ## Program image (70 R503) -/

/-- Pack a byte stream big-endian: `(high << 8) | low` (R72, R503). -/
def packWords : List Byte → List Word
  | hi :: lo :: rest => BitVec.ofNat 16 (hi.toNat * 256 + lo.toNat) :: packWords rest
  | [_] => []
  | [] => []

/-- `LoadImage(bytes)` (R503). -/
def State.loadImage (s : State) (bytes : List Byte) : Host.Outcome State Fault Refusal :=
  if bytes.length % 2 ≠ 0 then .refused .oddImage
  else if 131072 < bytes.length then .refused .imageTooLarge
  else .next { s with mem := s.mem.writeBlock 0#16 (packWords bytes) }

/-! ## Connecting devices (46 R301, R302) -/

/-- The kinds of device a host connects: the four reference devices, or another one (R303; log entry 11). -/
inductive DeviceKind where
  | clock
  | keyboard
  | display
  | floppy
  | foreign (ident : Identity) (model : Nat) (selectors : List Word) (ticking : Bool)
  deriving DecidableEq, Repr

/-- The identity of a kind of device (R330, R345, R370, R400). -/
def kindIdentity (p : Parameters) : DeviceKind → Identity
  | .clock => p.idClock
  | .keyboard => p.idKeyboard
  | .display => p.idDisplay
  | .floppy => p.idFloppy
  | .foreign ident _ _ _ => ident

/-- DeviceReset: the local state at connect (R501). -/
def kindReset : DeviceKind → DeviceState
  | .clock => .clock clockReset
  | .keyboard => .keyboard keyboardReset
  | .display => .display displayReset
  | .floppy => .floppy floppyReset
  | .foreign _ model selectors ticking =>
    .foreign { model := model, selectors := selectors, ticking := ticking, locals := Config.foreignReset model }

/-- The instance of a connected device is `n` (R301; log entry 12). -/
def Slot.isInstance (n : Nat) : Slot → Bool
  | .connected d => d.inst == n
  | .disconnected => false

/-- What a device's own code did to the CPU stands, unless the CPU is unpowered: then only the slots change (R511). -/
def State.keepIfPowered (before after : State) : State :=
  if before.powered then after else { before with slots := after.slots }

/-- The device's connect callback (R301, R303). None of the reference devices does anything in it. -/
def State.connectCallback (s : State) (h : Nat) (d : Device) : State :=
  match d.state with
  | .clock _ | .keyboard _ | .display _ | .floppy _ => s
  | .foreign f =>
    let r := foreignRun State.hostEvent .connect f s
    r.st.setDeviceState h d r.dev

/-- `Connect(d)` at a boundary (R301). The new hardware id is the number of slots before. -/
def State.connect (s : State) (inst : Nat) (name : String) (kind : DeviceKind) : Host.Outcome State Fault Refusal :=
  if Params.maxDevices ≤ s.slots.length then .refused .busFull
  else if s.slots.any (Slot.isInstance inst) then .refused .alreadyConnected
  else
    let d : Device := { inst := inst, name := name, ident := kindIdentity s.params kind, state := kindReset kind }
    .next (State.connectCallback { s with slots := s.slots ++ [.connected d] } s.slots.length d)

/-- `Disconnect(h)` at a boundary (R302): the placeholder replaces the device, whose pending completion and local state are
gone with it (R414, R501). -/
def State.disconnect (s : State) (h : Nat) : Host.Outcome State Fault Refusal :=
  match s.slots[h]? with
  | none => .refused .noSuchHardwareId
  | some .disconnected => .next s
  | some (.connected _) => .next { s with slots := s.slots.set h .disconnected }

/-! ## Time, keys, media and power (47, 48, 49; 70 R511) -/

/-- A reference device's new local state and its `Interrupt` calls in a host action, each a Trigger performed at once
(R309, R455). -/
def State.deviceAction (s : State) (h : Nat) (d : Device) (ds : DeviceState) (requests : List Word) : State :=
  (s.setDeviceState h d ds).triggerAll requests

/-- The per-tick update of the device in slot `h` (R309). -/
def State.updateDevice (s : State) (h : Nat) (d : Device) (dt : Rat) : State :=
  match d.state with
  | .clock c =>
    let r := clockUpdate s.params c dt
    s.deviceAction h d (.clock r.1) r.2
  | .keyboard _ => s
  | .display v => s.deviceAction h d (.display (displayUpdate s.params v dt)) []
  | .floppy f =>
    let r := floppyUpdate s.params f dt s.mem
    s.keepIfPowered (State.deviceAction { s with mem := r.mem } h d (.floppy r.dev) r.requests)
  | .foreign f =>
    if f.ticking then
      let r := foreignRun State.hostEvent (.update dt) f s
      r.st.setDeviceState h d r.dev
    else s

/-- `Update(h, dt)` (R309). -/
def State.update (s : State) (h : Nat) (dt : Rat) : Host.Outcome State Fault Refusal :=
  if dt < 0 then .refused .negativeTime
  else
    match s.slots[h]? with
    | none => .refused .noSuchHardwareId
    | some .disconnected => .next s
    | some (.connected d) => .next (s.updateDevice h d dt)

/-- `KeyDown(h, k)` (R352). -/
def State.pressKey (s : State) (h : Nat) (k : Word) : Host.Outcome State Fault Refusal :=
  match s.slots[h]? with
  | none => .refused .noSuchHardwareId
  | some .disconnected => .refused .wrongDevice
  | some (.connected d) =>
    match d.state with
    | .keyboard kb =>
      let r := keyDown kb k
      .next (s.deviceAction h d (.keyboard r.1) r.2)
    | .clock _ | .display _ | .floppy _ | .foreign _ => .refused .wrongDevice

/-- `KeyUp(h, k)` (R352). -/
def State.releaseKey (s : State) (h : Nat) (k : Word) : Host.Outcome State Fault Refusal :=
  match s.slots[h]? with
  | none => .refused .noSuchHardwareId
  | some .disconnected => .refused .wrongDevice
  | some (.connected d) =>
    match d.state with
    | .keyboard kb => .next (s.deviceAction h d (.keyboard (keyUp kb k)) [])
    | .clock _ | .display _ | .floppy _ | .foreign _ => .refused .wrongDevice

/-- `Insert(h, m)` (R416). The argument must be a medium as R405 describes it (log entry 24). -/
def State.insertMedium (s : State) (h : Nat) (m : Medium) : Host.Outcome State Fault Refusal :=
  match s.slots[h]? with
  | none => .refused .noSuchHardwareId
  | some .disconnected => .refused .wrongDevice
  | some (.connected d) =>
    match d.state with
    | .floppy f =>
      if f.medium.isSome then .refused .mediumPresent
      else if !mediumWf s.params m then .refused .malformedMedium
      else
        let r := floppyInsert f m
        .next (s.deviceAction h d (.floppy r.1) r.2)
    | .clock _ | .keyboard _ | .display _ | .foreign _ => .refused .wrongDevice

/-- The medium that `Eject(h)` returns: the one in the drive (R417). -/
def State.mediumOf (s : State) (h : Nat) : Option Medium :=
  match s.slots[h]? with
  | some (.connected d) =>
    match d.state with
    | .floppy f => f.medium
    | .clock _ | .keyboard _ | .display _ | .foreign _ => none
  | some .disconnected => none
  | none => none

/-- `Eject(h)` (R417). -/
def State.ejectMedium (s : State) (h : Nat) : Host.Outcome State Fault Refusal :=
  match s.slots[h]? with
  | none => .refused .noSuchHardwareId
  | some .disconnected => .refused .wrongDevice
  | some (.connected d) =>
    match d.state with
    | .floppy f =>
      if f.medium.isNone then .refused .noMedium
      else
        let r := floppyEject f
        .next (s.deviceAction h d (.floppy r.1) r.2)
    | .clock _ | .keyboard _ | .display _ | .foreign _ => .refused .wrongDevice

/-- Cancel the pending completions of the device in a slot (R511). -/
def Slot.cancel : Slot → Slot
  | .connected d => .connected { d with state := deviceCancel d.state }
  | .disconnected => .disconnected

/-- `PowerOff()` (R511). -/
def State.powerOff (s : State) : State := { s with powered := false, slots := s.slots.map Slot.cancel }

/-- `PowerOn()` (R511). -/
def State.powerOn (s : State) : State := { s with powered := true }

/-- The display in slot `h`, if it holds one. -/
def State.displayOf (s : State) (h : Nat) : Option DisplayState :=
  match s.slots[h]? with
  | some (.connected d) =>
    match d.state with
    | .display v => some v
    | .clock _ | .keyboard _ | .floppy _ | .foreign _ => none
  | some .disconnected => none
  | none => none

/-! ## The table of host actions (70 R512) -/

/-- The host actions (R512). Save and Load carry the logical record (R504; log entry 6); `load none` stands for bytes that do
not decode. -/
inductive HostAction where
  | construct
  | connect (inst : Nat) (name : String) (kind : DeviceKind)
  | disconnect (h : Nat)
  | loadImage (bytes : List Byte)
  | execute (budget : Nat)
  | interrupt (m : Word)
  | isHalted
  | isPendingWakeUp
  | isOnFire
  | save
  | load (r : Option Snapshot)
  | powerOff
  | powerOn
  | update (h : Nat) (dt : Rat)
  | keyDown (h : Nat) (k : Word)
  | keyUp (h : Nat) (k : Word)
  | insert (h : Nat) (m : Medium)
  | eject (h : Nat)
  | pixel (h x y : Nat)
  | border (h : Nat)
  deriving DecidableEq, Repr

/-- What a host action answers. -/
inductive Reply where
  | done
  | hardwareId (h : Nat)
  | consumed (cycles : Nat)
  | flag (b : Bool)
  | snapshot (r : Snapshot)
  | load (r : LoadReply)
  | medium (m : Option Medium)
  | picture (p : Picture)
  deriving DecidableEq, Repr

/-- A state change answered with a reply that may depend on the state after it. -/
def answer (o : Host.Outcome State Fault Refusal) (reply : State → Reply) : Host.Outcome (State × Reply) Fault Refusal :=
  match o with
  | .next t => .next (t, reply t)
  | .fault f => .fault f
  | .refused r => .refused r

/-- A host action at an instruction boundary (R510, R512). -/
def hostAct (act : HostAction) (s : State) : Host.Outcome (State × Reply) Fault Refusal :=
  match act with
  | .construct => .next (State.construct s.params, .done)
  | .connect inst name kind => answer (s.connect inst name kind) (fun _ => .hardwareId s.slots.length)
  | .disconnect h => answer (s.disconnect h) (fun _ => .done)
  | .loadImage bytes => answer (s.loadImage bytes) (fun _ => .done)
  | .execute budget => answer (s.execute budget) (fun t => .consumed (t.cycles - s.cycles))
  | .interrupt m => .next (s.trigger m, .done)
  | .isHalted => .next (s, .flag s.isHalted)
  | .isPendingWakeUp => .next (s, .flag s.isPendingWakeUp)
  | .isOnFire => .next (s, .flag s.onFire)
  | .save => .next (s, .snapshot s.save)
  | .load r => .next ((s.load r).1, .load (s.load r).2)
  | .powerOff => .next (s.powerOff, .done)
  | .powerOn => .next (s.powerOn, .done)
  | .update h dt => answer (s.update h dt) (fun _ => .done)
  | .keyDown h k => answer (s.pressKey h k) (fun _ => .done)
  | .keyUp h k => answer (s.releaseKey h k) (fun _ => .done)
  | .insert h m => answer (s.insertMedium h m) (fun _ => .done)
  | .eject h => answer (s.ejectMedium h) (fun _ => .medium (s.mediumOf h))
  | .pixel h x y =>
    match s.displayOf h with
    | some d => if x < 128 ∧ y < 96 then .next (s, .picture (pixel s.params d s.mem x y)) else .refused .pixelOutOfRange
    | none => .refused .wrongDevice
  | .border h =>
    match s.displayOf h with
    | some d => .next (s, .picture (borderColour s.params d s.mem))
    | none => .refused .wrongDevice

/-- Where a host call is made: between instructions, or while one is executing (R141, R510, R525). -/
inductive CallPoint where
  | boundary
  | midInstruction
  deriving DecidableEq, Repr

/-- A host call: host actions land only at instruction boundaries (R510); Connect and Disconnect during an instruction are
refused by their own names (R301, R302, R525). -/
def hostCall (at_ : CallPoint) (act : HostAction) (s : State) : Host.Outcome (State × Reply) Fault Refusal :=
  match at_, act with
  | .boundary, _ => hostAct act s
  | .midInstruction, .connect _ _ _ => .refused .connectMidInstruction
  | .midInstruction, .disconnect _ => .refused .disconnectMidInstruction
  | .midInstruction, _ => .refused .hostActionMidInstruction

end Sys2Proof.Machine
end

