-- ==== Sys2Proof/Safety.lean ====
section
/-! DEFINITION. What counts as a safe run, and the terms the claims use: the invariant of the machine, the skip as a
relation, and which opcodes are conditional or reserved. -/

namespace Sys2Proof.Machine

/-! ## The invariant -/

/-- A list of words rises strictly. -/
def risingCodes : List Word → Bool
  | [] => true
  | [_] => true
  | x :: y :: rest => decide (x.toNat < y.toNat) && risingCodes (y :: rest)

/-- The clock is enabled exactly when its period is not 0, and its accumulated time is not negative (47 R331, R332,
R337). -/
def clockWf (d : ClockState) : Bool := d.enabled == decide (d.period ≠ 0#16) && decide (0 ≤ d.acc)

/-- The set of keys that are down is in its canonical form (47 R346). -/
def keyboardWf (d : KeyboardState) : Bool := risingCodes d.down

/-- The time since the last blink is not negative and below the period (48 R371, R379). -/
def displayWf (p : Parameters) (d : DisplayState) : Bool :=
  decide (0 ≤ d.blinkAcc) && decide (d.blinkAcc < p.blinkPeriod)

/-- A pending completion is of a sector of the disk, knows its track, and its remaining time is not
negative (49 R402, R406, R409, R415). -/
def transferWf (p : Parameters) (op : Transfer) : Bool :=
  decide (op.sector < p.floppySectors) && op.track == trackOf p op.sector && decide (0 ≤ op.remaining)

/-- The invariants of the floppy controller (49 R406): the head is on a track, the medium is one, BUSY exactly with a
pending completion, which has a medium, a writable one for a write (R410), and otherwise the state the medium gives. -/
def floppyWf (p : Parameters) (d : FloppyState) : Bool :=
  decide (d.head < p.floppyTracks) && d.medium.all (mediumWf p) && d.error != .broken &&
    match d.op with
    | none => d.status == idleStatus d.medium
    | some op =>
      d.status == .busy && transferWf p op &&
        match d.medium with
        | none => false
        | some m => !(op.kind == .write && m.wp)

/-- The local state of a device is one its rules allow. -/
def deviceWf (p : Parameters) : DeviceState → Bool
  | .clock d => clockWf d
  | .keyboard d => keyboardWf d
  | .display d => displayWf p d
  | .floppy d => floppyWf p d
  | .foreign _ => true

/-- A slot's device, if it has one, is in a state its rules allow. -/
def slotWf (p : Parameters) : Slot → Bool
  | .connected d => deviceWf p d.state
  | .disconnected => true

/-- The instance connected in a slot (46 R301). -/
def Slot.inst? : Slot → Option Nat
  | .connected d => some d.inst
  | .disconnected => none

/-- What holds at every instruction boundary: the parameters have values of their types (00 R9), memory is in canonical form, `pending` is empty (40 R141), at most 65536
slots (10 R44) with devices in legal states, no instance in two slots (46 R301), and no completion pending while the CPU is
unpowered (70 R511). -/
structure State.Inv (s : State) : Prop where
  params : s.params.wf = true
  memory : s.mem.wf = true
  pending : s.pending = []
  slotCount : s.slots.length ≤ Params.maxDevices
  devices : s.slots.all (slotWf s.params) = true
  instances : (s.slots.filterMap Slot.inst?).Nodup
  unpowered : s.powered = false → s.slots.all (fun x => !x.completing) = true

/-- on_fire is set whenever more than 256 messages wait (60 R456). A snapshot may be loaded that says otherwise. -/
def State.FireInv (s : State) : Prop := Params.queueFireBound < s.queue.length → s.onFire = true

/-! ## Safe runs -/

/-- The step has a successor state. -/
def State.CanStep (s : State) : Prop := ∃ t, step s = .next t

/-- `n` steps from `s` all have a successor state. -/
def SafeRun : Nat → State → Prop
  | 0, _ => True
  | n + 1, s => ∃ t, step s = .next t ∧ SafeRun n t

/-! ## Terms of the claims -/

/-- The skip of 40 R154 as a relation: from `pc` it passes over `k` instructions and ends at `q`. -/
inductive SkipsTo (m : Memory) : (pc q : Word) → (k : Nat) → Prop where
  /-- The instruction at `pc` is no conditional: it is the last one passed over. -/
  | last {pc : Word} (h : isConditionalWord (m.read pc) = false) :
      SkipsTo m pc (pc + BitVec.ofNat 16 (wordLength (m.read pc))) 1
  /-- The instruction at `pc` is a conditional: the skip goes on after it. -/
  | more {pc q : Word} {k : Nat} (h : isConditionalWord (m.read pc) = true)
      (rest : SkipsTo m (pc + BitVec.ofNat 16 (wordLength (m.read pc))) q k) : SkipsTo m pc q (k + 1)

/-- The eight conditionals, basic opcodes 0x10 .. 0x17 (40 R153). -/
def conditionalOpcode : Opcode → Bool
  | .basic o => 0x10 ≤ o && o ≤ 0x17
  | .special _ => false

/-- The reserved opcodes (30 R113, R114). -/
def reservedOpcode : Opcode → Bool
  | .basic o => [0x18, 0x19, 0x1C, 0x1D].contains o
  | .special so =>
    [0x00, 0x02, 0x03, 0x04, 0x05, 0x06, 0x07, 0x0D, 0x0E, 0x0F, 0x13, 0x14, 0x15, 0x16, 0x17, 0x18, 0x19, 0x1A, 0x1B,
      0x1C, 0x1D, 0x1E, 0x1F].contains so

end Sys2Proof.Machine
end

