-- ==== Sys2Proof/Certificates/Slice0/Obligations.lean ====
section
/-! DEFINITION. The statements for the provers, and the few tables and abbreviations they are written in. Each docstring names
the rules of spec/ it formalises. In every statement about an instruction the state `s` is the one after the fetch of the
first word: PC is past it (40_execution.md R142, R157). -/

open Sys2Proof Sys2Proof.Machine

namespace Sys2Proof.Claims

/-- The instructions that write a result to b and do not name EX among their effects. -/
def plainStores : List (DstOperand → SrcOperand → Instr) :=
  [Instr.set, Instr.mod, Instr.mdi, Instr.and, Instr.bor, Instr.xor]

/-- The instructions that write a result to b and EX. -/
def exStores : List (DstOperand → SrcOperand → Instr) :=
  [Instr.add, Instr.sub, Instr.mul, Instr.mli, Instr.div, Instr.dvi, Instr.adx, Instr.sbx, Instr.shr, Instr.asr,
    Instr.shl]

/-- The block transfers. -/
def blockStores : List (DstOperand → SrcOperand → Instr) := [Instr.sti, Instr.std]

/-- The eight conditionals with their tests on the values of b and a (43_conditional.md R251 to R258). -/
def conditionalTests : List ((DstOperand → SrcOperand → Instr) × (Word → Word → Bool)) :=
  [(Instr.ifb, fun bv av => decide (bv &&& av ≠ 0#16)), (Instr.ifc, fun bv av => decide (bv &&& av = 0#16)),
    (Instr.ife, fun bv av => decide (bv = av)), (Instr.ifn, fun bv av => decide (bv ≠ av)),
    (Instr.ifg, fun bv av => BitVec.ult av bv), (Instr.ifa, fun bv av => BitVec.slt av bv),
    (Instr.ifl, fun bv av => BitVec.ult bv av), (Instr.ifu, fun bv av => BitVec.slt bv av)]

/-- IA, the interrupt state, the power flag, the bus and the parameters are as before. -/
def controlUnchanged (s t : State) : Prop :=
  t.ia = s.ia ∧ t.queueing = s.queueing ∧ t.onFire = s.onFire ∧ t.queue = s.queue ∧ t.wakeReq = s.wakeReq ∧
    t.pending = s.pending ∧ t.powered = s.powered ∧ t.slots = s.slots ∧ t.params = s.params

/-- What a write to the location `l`, made in a state with stack pointer `sp` and program counter `pc`, leaves alone:
every other general register, SP, PC and every other word of memory. -/
def onlyWrites (l : Loc) (sp pc : Word) (s t : State) : Prop :=
  (∀ r, l ≠ .reg r → readReg t.gen r = readReg s.gen r) ∧ (l ≠ .sp → t.sp = sp) ∧ (l ≠ .pc → t.pc = pc) ∧
    (∀ addr, l ≠ .mem addr → t.read addr = s.read addr)

/-- SP after the stack forms of both operands: POP in a adds one, PUSH in b takes one (30 R106). -/
def spAfter (b : DstOperand) (a : SrcOperand) (sp : Word) : Word :=
  sp + (if a = .pop then 1#16 else 0#16) - (if b = .push then 1#16 else 0#16)

/-- PC after the next words of both operands (40 R142). -/
def pcAfter (b : DstOperand) (a : SrcOperand) (pc : Word) : Word :=
  pc + BitVec.ofNat 16 a.nextWords.length + BitVec.ofNat 16 b.nextWords.length

/-- SP after the stack form of the operand of a special instruction. -/
def spAfterSrc (a : SrcOperand) (sp : Word) : Word := sp + (if a = .pop then 1#16 else 0#16)

/-- PC after the next word of the operand of a special instruction. -/
def pcAfterSrc (a : SrcOperand) (pc : Word) : Word := pc + BitVec.ofNat 16 a.nextWords.length

/-- A clock through several updates: its state, and its `Interrupt` calls in order. -/
def clockUpdates (p : Parameters) (d : ClockState) : List Rat → ClockState × List Word
  | [] => (d, [])
  | dt :: dts =>
    let r := clockUpdate p d dt
    let r' := clockUpdates p r.1 dts
    (r'.1, r.2 ++ r'.2)

/-- A keyboard after several key presses. -/
def keyDowns (d : KeyboardState) : List Word → KeyboardState
  | [] => d
  | k :: ks => keyDowns (keyDown d k).1 ks

/-- The words read from a keyboard's selector 1, `n` times in the CPU state `s`, and the keyboard after them. -/
def keyPops (d : KeyboardState) : Nat → List Word
  | 0 => []
  | n + 1 => d.buf.headD 0#16 :: keyPops { d with buf := d.buf.tail } n

/-- `n` steps from `s` end in `u`. -/
def stepsTo : Nat → State → State → Prop
  | 0, s, u => u = s
  | n + 1, s, u => ∃ w, step s = .next w ∧ stepsTo n w u

/-- A start command of the floppy that fails (49 R409, R410): B is 0, the error is `e`, and one `Interrupt` call is made when the
error is new and a message is set. -/
def floppyFails (d : FloppyState) (e : FloppyError) (s : State) : HandlerRun :=
  { st := (s.request (if d.error ≠ e ∧ d.msg ≠ 0#16 then [d.msg] else [])).setReg .b 0,
    dev := .floppy { d with error := e }, extra := 0 }

/-- DVI of -32768 by -1 in a machine that refuses it (41 R196, D10). -/
def dviRefused (s : State) (bv av : Word) : Prop := s.params.dviOverflow = .fault ∧ bv = 0x8000#16 ∧ av = 0xFFFF#16

end Sys2Proof.Claims

open Sys2Proof.Claims

/-! ## Encoding -/

/-- Decoding an encoded well-formed instruction gives it back, with every operand at every value (30 R100 to R106, R111 to
R114). -/
def Obligations.DecodeEncodeRoundTrip : Prop :=
  ∀ (i : Instr) (rest : List Word), i.wellFormed = true → decode (encode i ++ rest) = .ok i rest

/-- What decodes is well formed and encodes to exactly the words it was decoded from: no bit of an instruction is dropped
(30 R100 to R106, R110). -/
def Obligations.EncodeDecodeRoundTrip : Prop :=
  ∀ (ws : List Word) (i : Instr) (rest : List Word),
    decode ws = .ok i rest → i.wellFormed = true ∧ encode i ++ rest = ws

/-- Len (30 R103): the length follows from the first word alone, by the rule's formula; and a list with that many words
decodes to an instruction of that length, reserved opcodes included. -/
def Obligations.LengthFollowsFromFirstWord : Prop :=
  ∀ (w : Word) (rest : List Word),
    let nw := fun v : Nat => v ∈ [0x10, 0x11, 0x12, 0x13, 0x14, 0x15, 0x16, 0x17, 0x1A, 0x1E, 0x1F]
    wordLength w = 1 + (if nw (w.toNat / 1024) then 1 else 0) +
        (if w.toNat % 32 ≠ 0 ∧ nw (w.toNat / 32 % 32) then 1 else 0) ∧
      (wordLength w ≤ rest.length + 1 →
        ∃ i, decode (w :: rest) = .ok i (rest.drop (wordLength w - 1)) ∧ i.length = wordLength w)

/-- Words written out from the spec's examples decode to the instructions they stand for (30 R104, 41 to 46, 95). -/
def Obligations.SampleWordsDecode : Prop :=
  decode [0x8382] = .ok (.add (.common .pc) (.short 0xFFFF)) [] ∧
  decode [0x7FC1, 0x0020, 0x1000] = .ok (.set (.common (.abs 0x1000)) (.common (.lit 0x0020))) [] ∧
  decode [0xC40B] = .ok (.bor (.common (.reg .a)) (.short 16)) [] ∧
  decode [0x6012] = .ok (.ife (.common (.reg .a)) .pop) [] ∧
  decode [0x3DDE] = .ok (.sti (.common (.ind .i)) (.common (.ind .j))) [] ∧
  decode [0xA420] = .ok (.jsr (.short 8)) [] ∧
  decode [0x8640] = .ok (.hwi (.short 0)) [] ∧
  decode [0x7C18, 0x1234] = .ok (.reservedBasic18 (.common (.reg .a)) (.common (.lit 0x1234))) []

/-- Short literals (30 R107): the value of each code; no next word and no cycle; the assembler's choice; and the long form
gives the same value, one word and one cycle later. -/
def Obligations.ShortLiteralOperand : Prop :=
  (∀ (c : Nat) (n : Word), 0x20 ≤ c → c ≤ 0x3F → decodeSrc c n = .short (BitVec.ofInt 16 ((c : Int) - 0x21))) ∧
  (∀ (v : Word) (s : State), (resolveA (.short v) s).av = v ∧ (resolveA (.short v) s).cost = 0 ∧
    (resolveA (.short v) s).st = s) ∧
  (∀ (v : Word) (s : State), (resolveA (.common (.lit v)) s).av = v ∧ (resolveA (.common (.lit v)) s).cost = 1 ∧
    (resolveA (.common (.lit v)) s).st = s.setPc (s.pc + 1)) ∧
  (∀ v : Word, SrcOperand.literal v = if v = 0xFFFF#16 ∨ v.toNat ≤ 30 then .short v else .common (.lit v))

/-! ## Operands -/

/-- ResolveA (40 R146), for every code of a and every next word `n`: location, value, lookup cycles and state. -/
def Obligations.SourceOperandForms : Prop :=
  ∀ (s : State) (n : Word),
    let u := s.setPc (s.pc + 1)
    let cell := fun (addr : Word) (cost : Nat) (st : State) =>
      { aloc := .mem addr, av := s.mem.read addr, cost := cost, st := st : ResolvedSrc }
    (∀ c < 8,
      let r := readReg s.gen (Reg.ofIndex c)
      resolveA (decodeSrc c n) s = { aloc := .reg (Reg.ofIndex c), av := r, cost := 0, st := s } ∧
        resolveA (decodeSrc (0x08 + c) n) s = cell r 0 s ∧ resolveA (decodeSrc (0x10 + c) n) s = cell (r + n) 1 u) ∧
    resolveA (decodeSrc 0x18 n) s = cell s.sp 0 (s.setSp (s.sp + 1)) ∧
    resolveA (decodeSrc 0x19 n) s = cell s.sp 0 s ∧
    resolveA (decodeSrc 0x1A n) s = cell (s.sp + n) 1 u ∧
    resolveA (decodeSrc 0x1B n) s = { aloc := .sp, av := s.sp, cost := 0, st := s } ∧
    resolveA (decodeSrc 0x1C n) s = { aloc := .pc, av := s.pc, cost := 0, st := s } ∧
    resolveA (decodeSrc 0x1D n) s = { aloc := .ex, av := s.ex, cost := 0, st := s } ∧
    resolveA (decodeSrc 0x1E n) s = cell n 1 u ∧
    resolveA (decodeSrc 0x1F n) s = { aloc := .lit n, av := n, cost := 1, st := u } ∧
    (∀ c : Nat, 0x20 ≤ c → c ≤ 0x3F →
      let v := BitVec.ofInt 16 ((c : Int) - 0x21)
      resolveA (decodeSrc c n) s = { aloc := .lit v, av := v, cost := 0, st := s })

/-- ResolveB (40 R147), for every code of b and every next word `n`, in the state that a leaves (40 R144): PUSH decrements SP first;
every other code is located as in ResolveA; the old value is read right after. -/
def Obligations.DestinationOperandForms : Prop :=
  ∀ (a : SrcOperand) (n : Word) (s : State),
    let ra := resolveA a s
    (let o := resolve (decodeDst 0x18 n) a s
     o.av = ra.av ∧ o.bloc = .mem (ra.st.sp - 1) ∧ o.bv = s.mem.read (ra.st.sp - 1) ∧ o.cost = ra.cost ∧
      o.st = ra.st.setSp (ra.st.sp - 1)) ∧
    (∀ c < 0x20, c ≠ 0x18 →
      let o := resolve (decodeDst c n) a s
      let rb := resolveA (decodeSrc c n) ra.st
      o.av = ra.av ∧ o.bloc = rb.aloc ∧ o.bv = rb.av ∧ o.cost = ra.cost + rb.cost ∧ o.st = rb.st)

/-- The PC an operand reads (40 R148): as a, the first word's address plus one, which is the PC the meaning starts with; as b,
the address of the following instruction. The spec marks this as its own decision D4. -/
def Obligations.PcOperandReads : Prop :=
  ∀ (a : SrcOperand) (b : DstOperand) (s : State),
    (resolve b (.common .pc) s).av = s.pc ∧
    (resolve (.common .pc) a s).bv = s.pc + BitVec.ofNat 16 a.nextWords.length

/-- A literal destination (30 R109): the instruction completes, and no register but PC and the stack form's SP, and no word of
memory, is written; EX is left alone by the instructions that do not set it, and by IAG and HWN; STI and STD still step I and
J. Not meant is a DVI that the parameter DVI_OVERFLOW refuses (41 R196, D10). -/
def Obligations.LiteralDestinationWritesNothing : Prop :=
  (∀ f ∈ plainStores, ∀ (n : Word) (a : SrcOperand) (s : State),
    ∃ t, exec (f (.common (.lit n)) a) s = .next t ∧ t.gen = s.gen ∧ t.mem = s.mem ∧ t.sp = spAfterSrc a s.sp ∧
      t.pc = pcAfterSrc a s.pc + 1 ∧ t.ex = s.ex ∧ controlUnchanged s t) ∧
  (∀ f ∈ exStores, ∀ (n : Word) (a : SrcOperand) (s : State), ¬ (f = Instr.dvi ∧ dviRefused s n (resolveA a s).av) →
    ∃ t, exec (f (.common (.lit n)) a) s = .next t ∧ t.gen = s.gen ∧ t.mem = s.mem ∧ t.sp = spAfterSrc a s.sp ∧
      t.pc = pcAfterSrc a s.pc + 1 ∧ controlUnchanged s t) ∧
  (∀ p ∈ [(Instr.sti, 1#16), (Instr.std, 0xFFFF#16)], ∀ (n : Word) (a : SrcOperand) (s : State),
    ∃ t, exec (p.1 (.common (.lit n)) a) s = .next t ∧
      t.gen = { s.gen with i := s.gen.i + p.2, j := s.gen.j + p.2 } ∧ t.mem = s.mem ∧ t.sp = spAfterSrc a s.sp ∧
      t.pc = pcAfterSrc a s.pc + 1 ∧ t.ex = s.ex ∧ controlUnchanged s t) ∧
  (∀ (n : Word) (s : State),
    exec (.iag (.common (.lit n))) s = .next ((s.advancePc 1).charge 2) ∧
    exec (.iag (.short n)) s = .next (s.charge 1) ∧
    exec (.hwn (.common (.lit n))) s = .next ((s.advancePc 1).charge 3) ∧
    exec (.hwn (.short n)) s = .next (s.charge 2))

/-! ## Results of the basic instructions -/

/-- SET (41 R190). -/
def Obligations.SetCopies : Prop :=
  ∀ (b : DstOperand) (a : SrcOperand) (s : State),
    let o := resolve b a s
    (Instr.set b a).opcode = .basic 0x01 ∧
    exec (.set b a) s = .next ((o.st.writeLoc o.bloc o.av).charge (1 + o.cost))

/-- ADD (41 R191) and SUB (41 R192): the sum and difference modulo 2^16, the carry 1 and the borrow 0xFFFF in EX, EX written
before the destination (40 R149). -/
def Obligations.AddSubResults : Prop :=
  ∀ (b : DstOperand) (a : SrcOperand) (s : State),
    let o := resolve b a s
    (Instr.add b a).opcode = .basic 0x02 ∧ (Instr.sub b a).opcode = .basic 0x03 ∧
    exec (.add b a) s =
      .next (((o.st.setEx (if 0xFFFF < o.bv.toNat + o.av.toNat then 1 else 0)).writeLoc o.bloc (o.bv + o.av)).charge
        (2 + o.cost)) ∧
    exec (.sub b a) s =
      .next (((o.st.setEx (if o.bv.toNat < o.av.toNat then 0xFFFF else 0)).writeLoc o.bloc (o.bv - o.av)).charge
        (2 + o.cost))

/-- MUL (41 R193) and MLI (41 R194): the low word of the product to b, the high word of the unsigned and of the signed product
to EX. -/
def Obligations.MulMliResults : Prop :=
  ∀ (b : DstOperand) (a : SrcOperand) (s : State),
    let o := resolve b a s
    (Instr.mul b a).opcode = .basic 0x04 ∧ (Instr.mli b a).opcode = .basic 0x05 ∧
    exec (.mul b a) s =
      .next (((o.st.setEx (BitVec.ofNat 16 (o.bv.toNat * o.av.toNat / 65536))).writeLoc o.bloc (o.bv * o.av)).charge
        (2 + o.cost)) ∧
    exec (.mli b a) s =
      .next (((o.st.setEx (BitVec.ofInt 16 (o.bv.toInt * o.av.toInt / 65536))).writeLoc o.bloc (o.bv * o.av)).charge
        (2 + o.cost))

/-- DIV (41 R195) and MOD (41 R197): unsigned quotient with its fraction in EX, and remainder with EX unchanged; all zero for
a zero divisor. -/
def Obligations.DivModResults : Prop :=
  ∀ (b : DstOperand) (a : SrcOperand) (s : State),
    let o := resolve b a s
    (Instr.div b a).opcode = .basic 0x06 ∧ (Instr.mod b a).opcode = .basic 0x08 ∧
    exec (.div b a) s =
      .next (((o.st.setEx (if o.av = 0#16 then 0 else BitVec.ofNat 16 (o.bv.toNat * 65536 / o.av.toNat))).writeLoc o.bloc
        (if o.av = 0#16 then 0 else o.bv / o.av)).charge (3 + o.cost)) ∧
    exec (.mod b a) s =
      .next ((o.st.writeLoc o.bloc (if o.av = 0#16 then 0 else o.bv % o.av)).charge (3 + o.cost))

/-- DVI (41 R196) and MDI (41 R198): signed quotient rounded toward 0 with its fraction in EX, and the remainder with the sign
of b; all zero for a zero divisor. -32768 by -1 gives 0x8000 and EX 0 where the parameter DVI_OVERFLOW is `mathematical`, the
default, and has no successor where it is `fault` (log entry 4). The spec marks this corner as its own decision D10. -/
def Obligations.DviMdiResults : Prop :=
  ∀ (b : DstOperand) (a : SrcOperand) (s : State),
    let o := resolve b a s
    (Instr.dvi b a).opcode = .basic 0x07 ∧ (Instr.mdi b a).opcode = .basic 0x09 ∧
    (¬ dviRefused s o.bv o.av → exec (.dvi b a) s = .next
      (((o.st.setEx (if o.av = 0#16 then 0 else BitVec.ofInt 16 ((o.bv.toInt * 65536).tdiv o.av.toInt))).writeLoc o.bloc
        (if o.av = 0#16 then 0 else o.bv.sdiv o.av)).charge (3 + o.cost))) ∧
    (s.params.dviOverflow = .mathematical → o.bv = 0x8000#16 → o.av = 0xFFFF#16 →
      exec (.dvi b a) s = .next (((o.st.setEx 0).writeLoc o.bloc 0x8000).charge (3 + o.cost))) ∧
    (dviRefused s o.bv o.av → exec (.dvi b a) s = .refused .dviOverflow) ∧
    exec (.mdi b a) s =
      .next ((o.st.writeLoc o.bloc (if o.av = 0#16 then 0 else o.bv.srem o.av)).charge (3 + o.cost))

/-- ADX (41 R199) and SBX (41 R200): the sum and the difference with EX, which is read after operand resolution; EX becomes
the carry, and 0xFFFF for an underflow or 1 for an overflow. SBX adds EX unsigned, or signed where the parameter SBX_EX_SIGNED
is set (log entry 4); both write the same b. The spec marks SBX's reading of EX as its own decision D9. -/
def Obligations.AdxSbxResults : Prop :=
  ∀ (b : DstOperand) (a : SrcOperand) (s : State),
    let o := resolve b a s
    let sum := o.bv.toNat + o.av.toNat + o.st.ex.toNat
    let diff := (o.bv.toNat : Int) - o.av.toNat + (if s.params.sbxExSigned then o.st.ex.toInt else o.st.ex.toNat)
    (Instr.adx b a).opcode = .basic 0x1A ∧ (Instr.sbx b a).opcode = .basic 0x1B ∧
    exec (.adx b a) s =
      .next (((o.st.setEx (if 0xFFFF < sum then 1 else 0)).writeLoc o.bloc (o.bv + o.av + o.st.ex)).charge
        (3 + o.cost)) ∧
    exec (.sbx b a) s =
      .next (((o.st.setEx (if diff < 0 then 0xFFFF else if 0xFFFF < diff then 1 else 0)).writeLoc o.bloc
        (o.bv - o.av + o.st.ex)).charge (3 + o.cost))

/-- AND, BOR and XOR (42 R230, R231, R232), EX unchanged. -/
def Obligations.BitwiseResults : Prop :=
  ∀ (b : DstOperand) (a : SrcOperand) (s : State),
    let o := resolve b a s
    (Instr.and b a).opcode = .basic 0x0A ∧ (Instr.bor b a).opcode = .basic 0x0B ∧ (Instr.xor b a).opcode = .basic 0x0C ∧
    exec (.and b a) s = .next ((o.st.writeLoc o.bloc (o.bv &&& o.av)).charge (1 + o.cost)) ∧
    exec (.bor b a) s = .next ((o.st.writeLoc o.bloc (o.bv ||| o.av)).charge (1 + o.cost)) ∧
    exec (.xor b a) s = .next ((o.st.writeLoc o.bloc (o.bv ^^^ o.av)).charge (1 + o.cost))

/-- SHR, ASR and SHL (42 R233, R234, R235) as shifts of bit vectors: the result, and in EX the bits shifted out, read from the
32-bit shift. The count is the whole value of a. The spec marks the reading of the shifts out as its own decision D8, the
unmasked count as D7. -/
def Obligations.ShiftResults : Prop :=
  ∀ (b : DstOperand) (a : SrcOperand) (s : State),
    let o := resolve b a s
    let n := o.av.toNat
    (Instr.shr b a).opcode = .basic 0x0D ∧ (Instr.asr b a).opcode = .basic 0x0E ∧ (Instr.shl b a).opcode = .basic 0x0F ∧
    exec (.shr b a) s =
      .next (((o.st.setEx (((o.bv.setWidth 32 <<< 16) >>> n).setWidth 16)).writeLoc o.bloc (o.bv >>> n)).charge
        (1 + o.cost)) ∧
    exec (.asr b a) s =
      .next (((o.st.setEx (((o.bv.signExtend 32 <<< 16).sshiftRight n).setWidth 16)).writeLoc o.bloc
        (o.bv.sshiftRight n)).charge (1 + o.cost)) ∧
    exec (.shl b a) s =
      .next (((o.st.setEx (((o.bv.setWidth 32 <<< n) >>> 16).setWidth 16)).writeLoc o.bloc (o.bv <<< n)).charge
        (1 + o.cost))

/-- Long shifts (42 R233 to R236): a count of 16 or more moves every bit out of the result, a count of 32 or more out of EX
too, and at 16 EX is the old b; ASR fills with the sign and equals SHR on a non-negative b. The reference may mask its counts
(log entry 17). The spec marks the unmasked count as its own decision D7. -/
def Obligations.LongShifts : Prop :=
  ∀ bv av : Word,
    let sign : Word := if bv.toInt < 0 then 0xFFFF else 0
    (16 ≤ av.toNat → (shrFlags bv av).1 = 0 ∧ (shlFlags bv av).1 = 0 ∧ (asrFlags bv av).1 = sign) ∧
    (32 ≤ av.toNat → (shrFlags bv av).2 = 0 ∧ (shlFlags bv av).2 = 0 ∧ (asrFlags bv av).2 = sign) ∧
    (av.toNat = 16 → (shrFlags bv av).2 = bv ∧ (shlFlags bv av).2 = bv ∧ (asrFlags bv av).2 = bv) ∧
    (0 ≤ bv.toInt → asrFlags bv av = shrFlags bv av)

/-- STI (44 R270) and STD (44 R271): the copy, and then I and J one up or one down, modulo 65536. -/
def Obligations.StiStdResults : Prop :=
  ∀ (b : DstOperand) (a : SrcOperand) (s : State),
    let o := resolve b a s
    let t := o.st.writeLoc o.bloc o.av
    (Instr.sti b a).opcode = .basic 0x1E ∧ (Instr.std b a).opcode = .basic 0x1F ∧
    exec (.sti b a) s =
      .next (State.charge { t with gen := { t.gen with i := t.gen.i + 1, j := t.gen.j + 1 } } (2 + o.cost)) ∧
    exec (.std b a) s =
      .next (State.charge { t with gen := { t.gen with i := t.gen.i - 1, j := t.gen.j - 1 } } (2 + o.cost))

/-! ## Conditionals -/

/-- IFB, IFC, IFE, IFN, IFG, IFA, IFL and IFU, opcodes 0x10 to 0x17 in that order, with their tests (43 R251 to R258, R250): when
the test holds only the operands' resolution and the cost remain; when it fails PC moves to where the skip of 40 R154 ends, at
one cycle more for each instruction passed over. -/
def Obligations.ConditionalResults : Prop :=
  (∀ (b : DstOperand) (a : SrcOperand),
    conditionalTests.map (fun p => (p.1 b a).opcode) = (List.range 8).map (fun k => .basic (0x10 + k))) ∧
  ∀ p ∈ conditionalTests, ∀ (b : DstOperand) (a : SrcOperand) (s : State),
    let o := resolve b a s
    (p.2 o.bv o.av = true → exec (p.1 b a) s = .next (o.st.charge (2 + o.cost))) ∧
    (p.2 o.bv o.av = false → ∀ (q : Word) (k : Nat), SkipsTo o.st.mem o.st.pc q k →
      exec (p.1 b a) s = .next ((o.st.setPc q).charge (2 + o.cost + k)))

/-- The endless skip (40 R154): a failed conditional is stuck exactly when its skip ends nowhere; so it is when every word of
memory is a conditional word. The spec derives the endless skip itself, in R154. -/
def Obligations.EndlessSkipIsStuck : Prop :=
  ∀ p ∈ conditionalTests, ∀ (b : DstOperand) (a : SrcOperand) (s : State),
    let o := resolve b a s
    p.2 o.bv o.av = false →
      (exec (p.1 b a) s = .fault .endlessSkip ↔ ∀ (q : Word) (k : Nat), ¬ SkipsTo o.st.mem o.st.pc q k) ∧
      ((∀ addr, isConditionalWord (s.mem.read addr) = true) → exec (p.1 b a) s = .fault .endlessSkip)

/-- The frame of the eight conditionals (43 R250): no general register, no EX, no memory, no control state; SP only by the
stack forms of the operands. -/
def Obligations.ConditionalFrame : Prop :=
  ∀ p ∈ conditionalTests, ∀ (b : DstOperand) (a : SrcOperand) (s t : State),
    exec (p.1 b a) s = .next t →
      (∀ r, readReg t.gen r = readReg s.gen r) ∧ t.ex = s.ex ∧ t.sp = spAfter b a s.sp ∧ controlUnchanged s t ∧
        ∀ addr, t.read addr = s.read addr

/-! ## Subroutine and interrupt instructions -/

/-- JSR (45 R280): the return address is pushed, and PC takes the target, which was read before the push. -/
def Obligations.JsrResult : Prop :=
  ∀ (a : SrcOperand) (s : State), s.mem.wf = true →
    let o := resolveA a s
    (Instr.jsr a).opcode = .special 0x01 ∧
    ∃ t, exec (.jsr a) s = .next t ∧ t.pc = o.av ∧ t.sp = o.st.sp - 1 ∧ t.read (o.st.sp - 1) = pcAfterSrc a s.pc ∧
      t.cycles = s.cycles + 3 + o.cost

/-- INT (45 R281, 40 R156, 60 R455): at a boundary state, with the CPU powered, the message is discarded when IA is 0, queued
when queueing is on, and delivered at the end of the instruction otherwise; the cost is the same. The spec marks the deferral
to the end of the instruction as its own decision D11. -/
def Obligations.IntResult : Prop :=
  ∀ (a : SrcOperand) (s : State), s.pending = [] → s.powered = true →
    let o := resolveA a s
    let u := o.st.charge (4 + o.cost)
    (Instr.int a).opcode = .special 0x08 ∧
    (s.ia = 0#16 → exec (.int a) s = .next u) ∧
    (s.ia ≠ 0#16 → s.queueing = true → exec (.int a) s =
      .next { u with
        wakeReq := true, queue := s.queue ++ [o.av], onFire := s.onFire || decide (256 < s.queue.length + 1) }) ∧
    (s.ia ≠ 0#16 → s.queueing = false →
      exec (.int a) s = .next (State.deliver { u with wakeReq := true } o.av))

/-- IAG (45 R282), IAS (45 R283) and IAQ (45 R285). -/
def Obligations.IagIasIaqResults : Prop :=
  ∀ (a : SrcOperand) (s : State),
    let o := resolveA a s
    (Instr.iag a).opcode = .special 0x09 ∧ (Instr.ias a).opcode = .special 0x0A ∧ (Instr.iaq a).opcode = .special 0x0C ∧
    exec (.iag a) s = .next ((o.st.writeLoc o.aloc s.ia).charge (1 + o.cost)) ∧
    exec (.ias a) s = .next (State.charge { o.st with ia := o.av } (1 + o.cost)) ∧
    exec (.iaq a) s = .next (State.charge { o.st with queueing := decide (o.av ≠ 0#16) } (2 + o.cost))

/-- RFI (45 R284): after a is resolved, queueing is cleared, A is popped and then PC. -/
def Obligations.RfiResult : Prop :=
  ∀ (a : SrcOperand) (s : State),
    let o := resolveA a s
    (Instr.rfi a).opcode = .special 0x0B ∧
    exec (.rfi a) s =
      .next (State.charge { o.st with
        queueing := false, gen := { s.gen with a := s.read o.st.sp }, pc := s.read (o.st.sp + 1), sp := o.st.sp + 2 }
        (3 + o.cost))

/-! ## Hardware instructions -/

/-- HWN (46 R304): the number of slots, placeholders included, modulo 65536. HWQ (46 R305, R310): the five words of the
identity, the placeholder's all zero; an id that names no slot changes nothing. The spec marks HWN's count as its own decision
D18, the id without a slot as D16 and the placeholder's identity as D17. -/
def Obligations.HwnHwqResults : Prop :=
  ∀ (a : SrcOperand) (s : State),
    let o := resolveA a s
    let u := o.st.charge (4 + o.cost)
    (Instr.hwn a).opcode = .special 0x10 ∧ (Instr.hwq a).opcode = .special 0x11 ∧
    exec (.hwn a) s = .next ((o.st.writeLoc o.aloc (BitVec.ofNat 16 s.slots.length)).charge (2 + o.cost)) ∧
    (∀ d, s.slots[o.av.toNat]? = some (.connected d) → exec (.hwq a) s =
      .next { u with gen := { s.gen with
        a := d.ident.id.setWidth 16, b := (d.ident.id >>> 16).setWidth 16, c := d.ident.version,
        x := d.ident.manufacturer.setWidth 16, y := (d.ident.manufacturer >>> 16).setWidth 16 } }) ∧
    (s.slots[o.av.toNat]? = some .disconnected → exec (.hwq a) s =
      .next { u with gen := { s.gen with a := 0, b := 0, c := 0, x := 0, y := 0 } }) ∧
    (s.slots.length ≤ o.av.toNat → exec (.hwq a) s = .next u)

/-- HWI (46 R306, R308, R310): the addressed device's handler runs with PC past the instruction, its local state is kept in
its slot, its extra cycles are added, and what it requested is performed at the end; a placeholder or an id that names no slot
does nothing. The spec marks the deferral as its own decision D11, the id without a slot as D16 and the placeholder as D17. -/
def Obligations.HwiResult : Prop :=
  ∀ (a : SrcOperand) (s : State),
    let o := resolveA a s
    (Instr.hwi a).opcode = .special 0x12 ∧
    (∀ d, s.slots[o.av.toNat]? = some (.connected d) →
      let r := deviceHandle d.state o.st
      exec (.hwi a) s =
        .next (State.drainPending { r.st with
          slots := s.slots.set o.av.toNat (.connected { d with state := r.dev }),
          cycles := s.cycles + 4 + o.cost + r.extra })) ∧
    (s.slots[o.av.toNat]? = some .disconnected ∨ s.slots.length ≤ o.av.toNat → s.pending = [] →
      exec (.hwi a) s = .next (o.st.charge (4 + o.cost)))

/-- What any device's handler may touch (46 R307): not queueing, on_fire, Q, cycles, wake_req, the power flag, the slot
list or the parameters; its requests are added to `pending` (46 R308); and memory keeps its canonical form. The spec marks the list as its own
decision D32. -/
def Obligations.HandlersTouchOnlyTheirHandle : Prop :=
  ∀ (d : DeviceState) (s : State),
    let t := (deviceHandle d s).st
    t.queueing = s.queueing ∧ t.onFire = s.onFire ∧ t.queue = s.queue ∧ t.cycles = s.cycles ∧ t.wakeReq = s.wakeReq ∧
      t.powered = s.powered ∧ t.slots = s.slots ∧ t.params = s.params ∧ (∃ ms, t.pending = s.pending ++ ms) ∧
      (s.mem.wf = true → t.mem.wf = true)

/-- What the handlers of the four reference devices leave alone (47, 48 and 49): the clock and the keyboard write at most C,
the floppy at most B and C, the display no register; memory is written by the display's two dumps only, each within its block;
and no handler of the four writes PC, SP, EX or IA. Which selectors exist is the spec's decision D22. -/
def Obligations.ReferenceHandlersFrame : Prop :=
  ∀ (d : DeviceState) (s : State), s.params.wf = true → (∀ f, d ≠ .foreign f) →
    let t := (deviceHandle d s).st
    t.pc = s.pc ∧ t.sp = s.sp ∧ t.ex = s.ex ∧ t.ia = s.ia ∧
    (∀ r, r ≠ .b → r ≠ .c → readReg t.gen r = readReg s.gen r) ∧
    ((∀ f, d ≠ .floppy f) → t.gen.b = s.gen.b) ∧
    (∀ v, d = .display v → t.gen = s.gen) ∧
    ((∀ v, d = .display v → s.gen.a ≠ 4#16 ∧ s.gen.a ≠ 5#16) → t.mem = s.mem) ∧
    (s.gen.a = 4#16 → ∀ addr, (∀ i < 256, addr ≠ s.gen.b + BitVec.ofNat 16 i) → t.read addr = s.read addr) ∧
    (s.gen.a = 5#16 → ∀ addr, (∀ i < 16, addr ≠ s.gen.b + BitVec.ofNat 16 i) → t.read addr = s.read addr)

/-- The reserved opcodes (40 R155, 30 R113, R114): reservedBasic18, 19, 1C and 1D and reservedSpecial00, 02 to 07, 0D to 0F
and 13 to 1F pass over their whole length at cost 1 and change nothing else. The spec marks the length and the cost as its own
decision D6 (log entry 18). -/
def Obligations.ReservedNoOp : Prop :=
  ∀ (i : Instr) (s : State), reservedOpcode i.opcode = true →
    exec i s = .next { s with pc := s.pc + BitVec.ofNat 16 (i.length - 1), cycles := s.cycles + 1 }

/-! ## The interrupt controller -/

/-- Trigger (60 R455). The spec marks wake_req and the unpowered CPU as its own decisions D14 and D34. -/
def Obligations.TriggerResult : Prop :=
  ∀ (m : Word) (s : State),
    (s.powered = false ∨ s.ia = 0#16 → s.trigger m = s) ∧
    (s.powered = true → s.ia ≠ 0#16 → s.queueing = true → s.trigger m =
      { s with wakeReq := true, queue := s.queue ++ [m], onFire := s.onFire || decide (256 < s.queue.length + 1) }) ∧
    (s.powered = true → s.ia ≠ 0#16 → s.queueing = false →
      s.trigger m = State.deliver { s with wakeReq := true } m)

/-- Overflow of the queue (60 R456, R464): messages triggered while queueing is on are queued in order, none is lost, and
on_fire becomes true exactly when more than 256 wait. The spec marks the appended message as its own decision D13. -/
def Obligations.QueueOverflowSetsOnFire : Prop :=
  ∀ (ms : List Word) (s : State), s.powered = true → s.ia ≠ 0#16 → s.queueing = true → s.queue = [] →
    s.onFire = false →
      (s.triggerAll ms).queue = ms ∧ ((s.triggerAll ms).onFire = true ↔ 256 < ms.length)

/-- The state on entry to a handler (60 R457, R460). The spec derives R460 from R457, and marks the cost 0 as its own decision
D19. -/
def Obligations.DeliveryEntryState : Prop :=
  ∀ (m : Word) (s : State), s.mem.wf = true →
    let t := s.deliver m
    t.pc = s.ia ∧ t.gen = { s.gen with a := m } ∧ t.sp = s.sp - 2 ∧ t.read (s.sp - 1) = s.pc ∧
      t.read (s.sp - 2) = s.gen.a ∧ t.queueing = true ∧ t.ex = s.ex ∧ t.ia = s.ia ∧ t.onFire = s.onFire ∧
      t.queue = s.queue ∧ t.cycles = s.cycles ∧ t.wakeReq = s.wakeReq ∧ t.pending = s.pending ∧ t.powered = s.powered ∧
      t.slots = s.slots ∧ t.params = s.params ∧ ∀ addr, addr ≠ s.sp - 1 → addr ≠ s.sp - 2 → t.read addr = s.read addr

/-- The boundary dispatch (60 R458). The spec marks it as its own decision D12. -/
def Obligations.BoundaryDispatch : Prop :=
  ∀ s : State,
    (s.queueing = true ∨ s.queue = [] → s.dispatch = s) ∧
    (∀ m q, s.queueing = false → s.queue = m :: q → s.ia = 0#16 → s.dispatch = { s with queue := q }) ∧
    (∀ m q, s.queueing = false → s.queue = m :: q → s.ia ≠ 0#16 →
      s.dispatch = State.deliver { s with queue := q } m)

/-- RFI undoes a delivery (60 R461): run right after it, it gives back every register, SP and PC, with queueing off. -/
def Obligations.ReturnUndoesDelivery : Prop :=
  ∀ (m : Word) (s : State), s.mem.wf = true →
    ∃ t, exec (.rfi (.short 0)) (s.deliver m) = .next t ∧ t.gen = s.gen ∧ t.pc = s.pc ∧ t.sp = s.sp ∧ t.ex = s.ex ∧
      t.ia = s.ia ∧ t.queueing = false

/-! ## The step -/

/-- A step runs the decoded instruction (40 R157): after the boundary dispatch, the words at PC decode to `i`, PC moves past
the first word, `i` is executed, and the deferred requests are performed; an instruction without a successor leaves the step
without one.
The dispatch is the spec's decision D12, the drain D11; an instruction's meaning starting after its first word is the model's
(log entry 7). -/
def Obligations.StepRunsDecodedInstruction : Prop :=
  ∀ (s : State) (i : Instr) (rest : List Word), s.powered = true →
    let d := s.dispatch
    decode [d.read d.pc, d.read (d.pc + 1), d.read (d.pc + 2)] = .ok i rest →
      (∀ t, exec i (d.setPc (d.pc + 1)) = .next t → step s = .next t.drainPending) ∧
      (∀ f, exec i (d.setPc (d.pc + 1)) = .fault f → step s = .fault f) ∧
      (∀ r, exec i (d.setPc (d.pc + 1)) = .refused r → step s = .refused r)

/-- Every step costs at least one cycle (40 R157). The spec derives it. -/
def Obligations.EveryStepCosts : Prop :=
  ∀ s t : State, step s = .next t → s.cycles + 1 ≤ t.cycles

/-- The step's only case without a successor is the endless skip (40 R157, 60 R450), and only a conditional meets it; and, where
the parameter DVI_OVERFLOW is `fault`, the DVI it refuses (41 R196, D10). The spec derives the endless skip in R154. -/
def Obligations.OnlyEndlessSkipStops : Prop :=
  ∀ s : State, s.powered = true →
    (∃ t, step s = .next t) ∨ (step s = .fault .endlessSkip ∧ conditionalOpcode s.dispatch.fetch.opcode = true) ∨
      (step s = .refused .dviOverflow ∧ s.params.dviOverflow = .fault ∧ s.dispatch.fetch.opcode = .basic 0x07)

/-- The invariant of the machine is kept by every step from every state. The invariant is the model's. -/
def Obligations.StepKeepsInvariant : Prop :=
  ∀ s t : State, s.Inv → step s = .next t → t.Inv

/-- The invariant holds at reset. The invariant is the model's; the reset values are the spec's decision D2. -/
def Obligations.ResetMeetsInvariant : Prop := State.reset.Inv ∧ State.reset.FireInv

/-- The reset state (10 R47, 70 R500), for every value of the parameters, and at their defaults (00 R9, log entry 3). The spec
marks every value as its own decision D2. -/
def Obligations.ResetState : Prop :=
  State.reset = State.construct Params.defaults ∧
  ∀ p : Parameters,
    let s := State.construct p
    (∀ r, readReg s.gen r = 0) ∧ s.pc = 0 ∧ s.sp = 0 ∧ s.ex = 0 ∧ s.ia = 0 ∧ s.queueing = false ∧ s.onFire = false ∧
      s.queue = [] ∧ s.cycles = 0 ∧ s.wakeReq = false ∧ s.pending = [] ∧ s.powered = true ∧
      (∀ addr, s.read addr = 0) ∧ s.slots = [] ∧ s.params = p

/-- on_fire is sticky, and is set whenever more than 256 messages wait (60 R456, R162): every step keeps both. The spec marks
the appended message as its own decision D13. -/
def Obligations.OnFireIsSticky : Prop :=
  ∀ s t : State, step s = .next t → (s.onFire = true → t.onFire = true) ∧ (s.FireInv → t.FireInv)

/-- What no step changes: the parameters, the power flag, the number of slots, which device is in each slot and its identity
(46 R300, R303); and a step never clears wake_req (40 R161). When wake_req is cleared is the spec's decision D14. -/
def Obligations.StepsKeepBusAndPower : Prop :=
  ∀ s t : State, step s = .next t →
    t.params = s.params ∧ t.powered = s.powered ∧ t.slots.map slotIdentity = s.slots.map slotIdentity ∧
      t.slots.map Slot.inst? = s.slots.map Slot.inst? ∧ (s.wakeReq = true → t.wakeReq = true)

/-! ## Frames -/

/-- The frame of SET, MOD, MDI, AND, BOR and XOR: only the location of b is written; SP moves by the stack forms and PC past
the instruction. -/
def Obligations.PlainStoreFrame : Prop :=
  ∀ f ∈ plainStores, ∀ (b : DstOperand) (a : SrcOperand) (s t : State), exec (f b a) s = .next t →
    let l := (resolve b a s).bloc
    onlyWrites l (spAfter b a s.sp) (pcAfter b a s.pc) s t ∧ (l ≠ .ex → t.ex = s.ex) ∧ controlUnchanged s t

/-- The frame of ADD, SUB, MUL, MLI, DIV, DVI, ADX, SBX, SHR, ASR and SHL: only EX and the location of b are written. -/
def Obligations.ExStoreFrame : Prop :=
  ∀ f ∈ exStores, ∀ (b : DstOperand) (a : SrcOperand) (s t : State), exec (f b a) s = .next t →
    onlyWrites (resolve b a s).bloc (spAfter b a s.sp) (pcAfter b a s.pc) s t ∧ controlUnchanged s t

/-- The frame of STI and STD: only the location of b, I and J are written. -/
def Obligations.StiStdFrame : Prop :=
  ∀ f ∈ blockStores, ∀ (b : DstOperand) (a : SrcOperand) (s t : State), exec (f b a) s = .next t →
    let l := (resolve b a s).bloc
    (∀ r, r ≠ .i → r ≠ .j → l ≠ .reg r → readReg t.gen r = readReg s.gen r) ∧
      (l ≠ .sp → t.sp = spAfter b a s.sp) ∧ (l ≠ .pc → t.pc = pcAfter b a s.pc) ∧ (l ≠ .ex → t.ex = s.ex) ∧
      (∀ addr, l ≠ .mem addr → t.read addr = s.read addr) ∧ controlUnchanged s t

/-- The frames of JSR, IAG, IAS, RFI, IAQ, HWN and HWQ: what each leaves alone. JSR stores one word, at the SP after its operand
less one; IAG and HWN store to the location of a; the others store nothing. -/
def Obligations.SpecialFrames : Prop :=
  ∀ (a : SrcOperand) (s t : State),
    let o := resolveA a s
    (exec (.jsr a) s = .next t →
      t.gen = s.gen ∧ t.ex = s.ex ∧ controlUnchanged s t ∧ ∀ addr, addr ≠ o.st.sp - 1 → t.read addr = s.read addr) ∧
    (exec (.iag a) s = .next t ∨ exec (.hwn a) s = .next t →
      onlyWrites o.aloc (spAfterSrc a s.sp) (pcAfterSrc a s.pc) s t ∧ (o.aloc ≠ .ex → t.ex = s.ex) ∧
        controlUnchanged s t) ∧
    (exec (.ias a) s = .next t →
      t.gen = s.gen ∧ t.ex = s.ex ∧ t.sp = spAfterSrc a s.sp ∧ controlUnchanged s { t with ia := s.ia } ∧
        ∀ addr, t.read addr = s.read addr) ∧
    (exec (.rfi a) s = .next t →
      (∀ r, r ≠ .a → readReg t.gen r = readReg s.gen r) ∧ t.ex = s.ex ∧ t.sp = spAfterSrc a s.sp + 2 ∧
        controlUnchanged s { t with queueing := s.queueing } ∧ ∀ addr, t.read addr = s.read addr) ∧
    (exec (.iaq a) s = .next t →
      t.gen = s.gen ∧ t.ex = s.ex ∧ t.sp = spAfterSrc a s.sp ∧ controlUnchanged s { t with queueing := s.queueing } ∧
        ∀ addr, t.read addr = s.read addr) ∧
    (exec (.hwq a) s = .next t →
      (∀ r, r ∉ [Reg.a, Reg.b, Reg.c, Reg.x, Reg.y] → readReg t.gen r = readReg s.gen r) ∧ t.ex = s.ex ∧
        t.sp = spAfterSrc a s.sp ∧ controlUnchanged s t ∧ ∀ addr, t.read addr = s.read addr)

/-- The frame of INT at a boundary state: of the general registers only A, and of memory only the two words a delivery pushes
below the SP after its operand; EX, IA, the power flag, the bus and the parameters stay. -/
def Obligations.IntFrame : Prop :=
  ∀ (a : SrcOperand) (s t : State), s.pending = [] → exec (.int a) s = .next t →
    let sp := spAfterSrc a s.sp
    (∀ r, r ≠ .a → readReg t.gen r = readReg s.gen r) ∧ t.ex = s.ex ∧ t.ia = s.ia ∧ t.powered = s.powered ∧
      t.slots = s.slots ∧ t.params = s.params ∧ t.pending = [] ∧ (t.sp = sp ∨ t.sp = sp - 2) ∧
      ∀ addr, addr ≠ sp - 1 → addr ≠ sp - 2 → t.read addr = s.read addr

/-! ## Devices -/

/-- Selectors of the devices that only answer or set values (47 R332, R333, R334, R347, R348, R349, R351, 49 R403, R404, R408,
R411): the clock's period, which starts its ticks at 0, ticks and message; the keyboard's clear, pop, query and message; the
floppy's poll, with the codes of its state and its error, which it clears, and message. Each has no extra cycles and changes
nothing else. That the period clears the accumulated time is the spec's own decision D23, and that the poll makes no
`Interrupt` call D27. -/
def Obligations.DeviceSelectors : Prop :=
  ∀ (c : ClockState) (k : KeyboardState) (f : FloppyState) (s : State),
    (s.gen.a = 0#16 → clockHandle c s =
      { st := s, dev := .clock { c with period := s.gen.b, ticks := 0, acc := 0, enabled := s.gen.b != 0#16 },
        extra := 0 }) ∧
    (s.gen.a = 1#16 → clockHandle c s = { st := s.setReg .c c.ticks, dev := .clock c, extra := 0 }) ∧
    (s.gen.a = 2#16 → clockHandle c s = { st := s, dev := .clock { c with msg := s.gen.b }, extra := 0 }) ∧
    (s.gen.a = 0#16 → keyboardHandle k s = { st := s, dev := .keyboard { k with buf := [] }, extra := 0 }) ∧
    (s.gen.a = 1#16 → k.buf = [] → keyboardHandle k s = { st := s.setReg .c 0, dev := .keyboard k, extra := 0 }) ∧
    (∀ x xs, s.gen.a = 1#16 → k.buf = x :: xs →
      keyboardHandle k s = { st := s.setReg .c x, dev := .keyboard { k with buf := xs }, extra := 0 }) ∧
    (s.gen.a = 2#16 → keyboardHandle k s =
      { st := s.setReg .c (if s.gen.b ∈ k.down then 1 else 0), dev := .keyboard k, extra := 0 }) ∧
    (s.gen.a = 3#16 → keyboardHandle k s = { st := s, dev := .keyboard { k with msg := s.gen.b }, extra := 0 }) ∧
    (s.gen.a = 0#16 →
      let status : Word := match f.status with
        | .noMedia => 0 | .ready => 1 | .readyWp => 2 | .busy => 3
      let error : Word := match f.error with
        | .noError => 0 | .busy => 1 | .noMedia => 2 | .writeProtected => 3 | .eject => 4 | .badSector => 5
        | .broken => 0xFFFF
      floppyHandle f s =
        { st := { s with gen := { s.gen with b := status, c := error } }, dev := .floppy { f with error := .noError },
          extra := 0 }) ∧
    (s.gen.a = 1#16 → floppyHandle f s = { st := s, dev := .floppy { f with msg := s.gen.x }, extra := 0 })

/-- The clock (47 R335, R336): from an enabled clock with no time accumulated, updates that add up to exactly `k` periods,
however split, give `k` ticks, nothing left over, and, when a message is set, exactly `k` `Interrupt` calls. The spec derives
R336 from its reading of the update, its own decision D23. -/
def Obligations.ClockTicksExactly : Prop :=
  ∀ (p : Parameters) (d : ClockState) (dts : List Rat) (k : Nat), p.wf = true → d.enabled = true → d.period ≠ 0#16 → d.acc = 0 →
    (∀ dt ∈ dts, 0 ≤ dt) → dts.sum = (k : Rat) * ((d.period.toNat : Rat) / p.clockBaseHz) →
      (clockUpdates p d dts).1 = { d with ticks := d.ticks + BitVec.ofNat 16 k, acc := 0 } ∧
        (clockUpdates p d dts).2 = if d.msg = 0#16 then [] else List.replicate k d.msg

/-- The keyboard (47 R347 to R353): presses are buffered in order and marked down; selector 1 gives them back oldest first and
then 0; a release clears the down state and not the history; selector 2 reports it. The spec derives R353; the host's key
actions are its own decision D24. -/
def Obligations.KeyboardKeepsOrder : Prop :=
  ∀ (d : KeyboardState) (ks : List Word) (n : Nat) (s : State), d.buf = [] →
    let e := keyDowns d ks
    e.buf = ks ∧ (∀ k ∈ ks, k ∈ e.down) ∧ keyPops e (ks.length + n) = ks ++ List.replicate n 0#16 ∧
      (s.gen.a = 1#16 → keyboardHandle e s =
        { st := s.setReg .c (e.buf.headD 0#16), dev := .keyboard { e with buf := e.buf.tail }, extra := 0 }) ∧
      (s.gen.a = 2#16 → keyboardHandle e s =
        { st := s.setReg .c (if s.gen.b ∈ e.down then 1 else 0), dev := .keyboard e, extra := 0 }) ∧
      (∀ k, k ∉ (keyUp e k).down ∧ (keyUp e k).buf = e.buf ∧ ∀ k' ∈ e.down, k' ≠ k → k' ∈ (keyUp e k).down)

/-- The floppy's read (49 R409, R415, R418): on a busy controller it fails with ERROR_BUSY, without a medium with
ERROR_NO_MEDIA, and for a sector off the disk with ERROR_BAD_SECTOR, each with B = 0 and nothing else changed; on a ready one,
write-protected or not, it answers B = 1 and goes busy; an update by less than the delay leaves it busy and writes nothing but,
at most, the buffer; one by the delay or more returns it to the ready state with the head on the track, and then the buffer
holds exactly the words of the sector (when a sector fits into memory) and no other word has changed. Nothing is said of the buffer while the controller is
busy: its words may then be the old ones or, each at its own time, the sector's, and a program that stores to it meanwhile is
not meant (70 R520, log entry 19). The spec derives R418 from its own decisions D26 and D28. -/
def Obligations.FloppyReadCopiesOneSector : Prop :=
  ∀ (d : FloppyState) (s : State), s.params.wf = true → floppyWf s.params d = true → s.gen.a = 2#16 →
    let t := s.gen.x.toNat / s.params.floppySectorsPerTrack
    let inBuffer := fun addr : Word => ∃ i < s.params.floppySectorWords, addr = s.gen.y + BitVec.ofNat 16 i
    (d.status = .busy → floppyHandle d s = floppyFails d .busy s) ∧
    (d.medium = none → floppyHandle d s = floppyFails d .noMedia s) ∧
    (d.op = none → d.medium ≠ none → s.params.floppyTracks * s.params.floppySectorsPerTrack ≤ s.gen.x.toNat →
      floppyHandle d s = floppyFails d .badSector s) ∧
    (∀ med, d.op = none → d.medium = some med →
      s.gen.x.toNat < s.params.floppyTracks * s.params.floppySectorsPerTrack →
      ∃ e, (floppyHandle d s).dev = .floppy e ∧ (floppyHandle d s).st.gen.b = 1 ∧ e.status = .busy ∧
        ∀ (dt : Rat) (m : Memory), m.wf = true →
          (dt < floppyDelay s.params d t →
            (floppyUpdate s.params e dt m).dev.status = .busy ∧
            ∀ addr, ¬ inBuffer addr → (floppyUpdate s.params e dt m).mem.read addr = m.read addr) ∧
          (floppyDelay s.params d t ≤ dt →
            (floppyUpdate s.params e dt m).dev = { d with head := t } ∧
            (∀ addr, ¬ inBuffer addr → (floppyUpdate s.params e dt m).mem.read addr = m.read addr) ∧
            (s.params.floppySectorWords ≤ 65536 → (∀ i < s.params.floppySectorWords,
                m.read (s.gen.y + BitVec.ofNat 16 i) = s.read (s.gen.y + BitVec.ofNat 16 i) ∨
                m.read (s.gen.y + BitVec.ofNat 16 i) = (sectorRead s.params med s.gen.x.toNat).getD i 0#16) →
              ∀ i < s.params.floppySectorWords, (floppyUpdate s.params e dt m).mem.read (s.gen.y + BitVec.ofNat 16 i) =
                (sectorRead s.params med s.gen.x.toNat).getD i 0#16)))

/-- The display's dumps (48 R376, R377): selector 4 writes the 256 words of the default font at B, selector 5 the 16 of the
default palette, addresses modulo 65536, and no other word; the extra cycles are 256 and 16. -/
def Obligations.DisplayDumps : Prop :=
  ∀ (d : DisplayState) (s : State), s.mem.wf = true → s.params.wf = true →
    let r := displayHandle d s
    (s.gen.a = 4#16 → r.extra = 256 ∧ r.dev = .display d ∧
      (∀ i < 256, r.st.read (s.gen.b + BitVec.ofNat 16 i) = Config.defaultFont i) ∧
      ∀ addr, (∀ i < 256, addr ≠ s.gen.b + BitVec.ofNat 16 i) → r.st.read addr = s.read addr) ∧
    (s.gen.a = 5#16 → r.extra = 16 ∧ r.dev = .display d ∧
      (∀ i < 16, r.st.read (s.gen.b + BitVec.ofNat 16 i) = s.params.defaultPalette.getD i 0#16) ∧
      ∀ addr, (∀ i < 16, addr ≠ s.gen.b + BitVec.ofNat 16 i) → r.st.read addr = s.read addr)

/-! ## The host interface -/

/-- Execute (40 R158, R159): budget 0 runs nothing; a budget of at least 1 runs the steps of the CPU from the given state, up
to the first after which the budget is consumed, so that it is overshot by less than the cost of that last instruction, and
wake_req is cleared (40 R161); where one of these steps has no successor, neither has Execute; the answer is the growth of the
cycle counter; an unpowered CPU executes nothing (10 R42). The loop test is the spec's decision D15, wake_req D14, the refusal
of Execute D34; the refusal of a bare step is the model's (log entry 8). -/
def Obligations.ExecuteConsumesBudget : Prop :=
  ∀ (budget : Nat) (s : State),
    (s.powered = false → step s = .refused .executeUnpowered ∧ s.execute budget = .refused .executeUnpowered) ∧
    (s.powered = true → s.execute 0 = .next { s with wakeReq := false }) ∧
    (∀ t, 0 < budget → (s.execute budget = .next t ↔
      ∃ n u v, stepsTo n s u ∧ u.cycles < s.cycles + budget ∧ step u = .next v ∧ s.cycles + budget ≤ v.cycles ∧
        t = { v with wakeReq := false })) ∧
    (∀ f, s.execute budget = .fault f ↔ ∃ n u, stepsTo n s u ∧ u.cycles < s.cycles + budget ∧ step u = .fault f) ∧
    (∀ t, s.execute budget = .next t →
      hostCall .boundary (.execute budget) s = .next (t, .consumed (t.cycles - s.cycles)))

/-- IsHalted and IsPendingWakeUp (40 R160, R161) are queries of the word at PC and of wake_req, and change nothing. wake_req
is the spec's decision D14. -/
def Obligations.HaltQueries : Prop :=
  ∀ s : State,
    hostCall .boundary .isHalted s = .next (s, .flag (decide (s.read s.pc = 0x8382#16))) ∧
    hostCall .boundary .isPendingWakeUp s = .next (s, .flag (decide (s.read s.pc = 0x8382#16) && s.wakeReq))

/-- LoadImage (70 R503): big-endian packing from address 0 on, nothing else changes; odd or oversized images are refused. The
refusals are the spec's decision D3. -/
def Obligations.LoadImagePacksBigEndian : Prop :=
  ∀ (bytes : List Byte) (s : State), s.mem.wf = true →
    (bytes.length % 2 ≠ 0 → s.loadImage bytes = .refused .oddImage) ∧
    (bytes.length % 2 = 0 → 131072 < bytes.length → s.loadImage bytes = .refused .imageTooLarge) ∧
    (bytes.length % 2 = 0 → bytes.length ≤ 131072 →
      ∃ m, s.loadImage bytes = .next { s with mem := m } ∧
        (∀ i, 2 * i + 1 < bytes.length →
          m.read (BitVec.ofNat 16 i) = bytes.getD (2 * i) 0#8 ++ bytes.getD (2 * i + 1) 0#8) ∧
        ∀ addr : Word, bytes.length ≤ 2 * addr.toNat → m.read addr = s.read addr)

/-- Save and Load (70 R504, R505, R506): for every faithful codec, loading what was saved into any CPU reproduces the twelve
registers, the memory, both flags and the queue, and leaves cycles, wake_req, powered, slots, pending and the parameters as
they were. LoadError (70 R505, R507), with the state exactly as before the call, answers bytes that do not decode, bytes that
are not the whole encoding of a record, as those that go on after one or stop within one, and a record with a wrong magic or
version or with lengths other than its own. The spec derives R506 from its own decision D30; the codec as an argument is the
model's (log entry 6), and so are what truncated and trailing mean for bytes and for a record (log entry 26). -/
def Obligations.SnapshotRoundTrip : Prop :=
  ∀ (c : SnapshotCodec) (u : State),
    (∀ s : State, s.mem.wf = true → State.loadBytes c u (s.saveBytes c) =
      ({ s with
        cycles := u.cycles, wakeReq := u.wakeReq, pending := u.pending, powered := u.powered, slots := u.slots,
        params := u.params }, .loaded)) ∧
    (∀ bytes, c.decode bytes = none → State.loadBytes c u bytes = (u, .loadError)) ∧
    (∀ bytes, (∀ r, c.encode r ≠ bytes) → State.loadBytes c u bytes = (u, .loadError)) ∧
    (∀ r : Snapshot, (r.magic ≠ Config.snapshotMagic ∨ r.version ≠ Config.snapshotVersion ∨ r.memory.length ≠ 65536 ∨
      r.queue.length ≠ r.queueLength) → State.loadBytes c u (c.encode r) = (u, .loadError)) ∧
    (∀ r, (u.load r).2 = .loadError → hostCall .boundary (.load r) u = .next (u, .load .loadError))

/-- PowerOff (70 R511, 49 R414), slot by slot: a placeholder, a clock, a keyboard, a display and a floppy without a transfer are
as before; of a floppy with a transfer the transfer is gone, without an interrupt or a copy, and the state is the one its medium
gives; a device keeps its slot, instance, name and identity, and one that is none of the four changes its local words only. No
other state of the CPU changes, no completion is pending, and the device states stay legal. The spec marks it as its own
decision D34; what the last kind of device does is the model's (log entry 11), and so is a transfer without a medium, which no
run reaches (log entry 28). -/
def Obligations.PowerOffCancelsCompletions : Prop :=
  ∀ s : State,
    let t := s.powerOff
    t = { s with powered := false, slots := t.slots } ∧ t.slots.length = s.slots.length ∧
    (∀ h : Nat, s.slots[h]? = some .disconnected → t.slots[h]? = some .disconnected) ∧
    (∀ (h : Nat) (d : Device), s.slots[h]? = some (.connected d) →
      ∃ ds, t.slots[h]? = some (.connected { d with state := ds }) ∧
        (∀ c, d.state = .clock c → ds = .clock c) ∧ (∀ k, d.state = .keyboard k → ds = .keyboard k) ∧
        (∀ v, d.state = .display v → ds = .display v) ∧
        (∀ f, d.state = .floppy f → f.op = none → ds = .floppy f) ∧
        (∀ f, d.state = .floppy f → f.op ≠ none → ds = .floppy { f with
          op := none,
          status := match f.medium with
            | none => .noMedia
            | some m => if m.wp then .readyWp else .ready }) ∧
        (∀ f, d.state = .foreign f → ∃ ls, ds = .foreign { f with locals := ls })) ∧
    (∀ x ∈ t.slots, Slot.completing x = false) ∧
    (s.slots.all (slotWf s.params) = true → t.slots.all (slotWf s.params) = true)

/-- Every host action at a boundary keeps the invariant of the machine and its parameters (70 R512, 00 R9). The invariant is the model's; the table of
actions rests on the spec's decisions D29 and D34. -/
def Obligations.HostActionsKeepInvariant : Prop :=
  ∀ (act : HostAction) (s t : State) (r : Reply),
    s.Inv → hostCall .boundary act s = .next (t, r) → t.Inv ∧ t.params = s.params
end

