-- ==== Sys2Proof/Laws/Memory.lean ====
section
/-! SUPPORT. The laws of memory: a read after a write, the canonical form and that every memory operation keeps it, and that
canonical memories with equal reads are equal. -/

namespace Sys2Proof.Machine

theorem Memory.wfFrom_cons {lo k : Nat} {v : Word} {rest : Memory} :
    Memory.wfFrom lo ((k, v) :: rest) = true ↔
      lo ≤ k ∧ k < 65536 ∧ v ≠ 0#16 ∧ Memory.wfFrom (k + 1) rest = true := by
  simp [Memory.wfFrom, and_assoc]

theorem Memory.wfFrom_mono {lo lo' : Nat} {m : Memory} (h : Memory.wfFrom lo m = true) (hle : lo' ≤ lo) :
    Memory.wfFrom lo' m = true := by
  cases m with
  | nil => rfl
  | cons c rest =>
    obtain ⟨k, v⟩ := c
    rw [Memory.wfFrom_cons] at h ⊢
    exact ⟨by omega, h.2⟩

theorem Memory.lookup_below {lo k : Nat} {m : Memory} (h : Memory.wfFrom lo m = true) (hk : k < lo) :
    Memory.lookup k m = 0#16 := by
  induction m generalizing lo with
  | nil => rfl
  | cons c rest ih =>
    obtain ⟨k', v⟩ := c
    rw [Memory.wfFrom_cons] at h
    rw [Memory.lookup, if_neg (by omega)]
    exact ih h.2.2.2 (by omega)

theorem Memory.lookup_update_ne {k k' : Nat} {v : Word} {m : Memory} (hne : k' ≠ k) :
    Memory.lookup k' (Memory.update k v m) = Memory.lookup k' m := by
  induction m with
  | nil =>
    simp only [Memory.update]
    split_ifs <;> simp [Memory.lookup, hne.symm]
  | cons c rest ih =>
    obtain ⟨j, w⟩ := c
    simp only [Memory.update]
    split_ifs with h1 h2 h3 h4 <;> simp only [Memory.lookup, ih]
    · rw [if_neg (Ne.symm hne)]
    · rw [if_neg (by omega)]
    · rw [if_neg (Ne.symm hne), if_neg (by omega)]

theorem Memory.lookup_update_same {lo k : Nat} {v : Word} {m : Memory} (h : Memory.wfFrom lo m = true) :
    Memory.lookup k (Memory.update k v m) = v := by
  induction m generalizing lo with
  | nil =>
    simp only [Memory.update]
    split_ifs with hv <;> simp [Memory.lookup, hv]
  | cons c rest ih =>
    obtain ⟨j, w⟩ := c
    have hc := Memory.wfFrom_cons.mp h
    simp only [Memory.update]
    split_ifs with h1 h2 h3 h4
    · rw [h2, Memory.lookup, if_neg (by omega)]
      exact Memory.lookup_below hc.2.2.2 (by omega)
    · simp [Memory.lookup]
    · rw [h4]
      exact Memory.lookup_below hc.2.2.2 (by omega)
    · simp [Memory.lookup]
    · rw [Memory.lookup, if_neg (by omega)]
      exact ih hc.2.2.2

theorem Memory.wfFrom_update {lo k : Nat} {v : Word} {m : Memory} (h : Memory.wfFrom lo m = true)
    (hlo : lo ≤ k) (hk : k < 65536) : Memory.wfFrom lo (Memory.update k v m) = true := by
  induction m generalizing lo with
  | nil =>
    simp only [Memory.update]
    split_ifs with hv
    · rfl
    · exact Memory.wfFrom_cons.mpr ⟨hlo, hk, hv, rfl⟩
  | cons c rest ih =>
    obtain ⟨j, w⟩ := c
    have hc := Memory.wfFrom_cons.mp h
    simp only [Memory.update]
    split_ifs with h1 h2 h3 h4
    · exact h
    · exact Memory.wfFrom_cons.mpr ⟨hlo, hk, h2, Memory.wfFrom_cons.mpr ⟨by omega, hc.2⟩⟩
    · exact Memory.wfFrom_mono hc.2.2.2 (by omega)
    · exact Memory.wfFrom_cons.mpr ⟨hlo, hk, h4, by rw [h3]; exact hc.2.2.2⟩
    · exact Memory.wfFrom_cons.mpr ⟨hc.1, hc.2.1, hc.2.2.1, ih hc.2.2.2 (by omega)⟩

/-- A read after a write to the same address gives the value written. -/
theorem Memory.read_write_same {m : Memory} (h : m.wf = true) (addr v : Word) : (m.write addr v).read addr = v :=
  Memory.lookup_update_same h

/-- A write leaves every other address alone. -/
theorem Memory.read_write_ne {m : Memory} {addr addr' v : Word} (hne : addr' ≠ addr) :
    (m.write addr v).read addr' = m.read addr' :=
  Memory.lookup_update_ne (fun h => hne (BitVec.eq_of_toNat_eq h))

/-- A write keeps the canonical form. -/
theorem Memory.wf_write {m : Memory} (h : m.wf = true) (addr v : Word) : (m.write addr v).wf = true :=
  Memory.wfFrom_update h (Nat.zero_le _) addr.isLt

/-- A block of writes keeps the canonical form. -/
theorem Memory.wf_writeBlock {m : Memory} (h : m.wf = true) (base : Word) (vs : List Word) :
    (m.writeBlock base vs).wf = true := by
  induction vs generalizing m base with
  | nil => exact h
  | cons v vs ih => exact ih (Memory.wf_write h base v) _

theorem Memory.lookup_congr {lo : Nat} {m m' : Memory} (h : Memory.wfFrom lo m = true)
    (h' : Memory.wfFrom lo m' = true) (heq : ∀ k, lo ≤ k → k < 65536 → Memory.lookup k m = Memory.lookup k m') :
    m = m' := by
  induction m generalizing lo m' with
  | nil =>
    cases m' with
    | nil => rfl
    | cons c rest =>
      obtain ⟨k, v⟩ := c
      have hc := Memory.wfFrom_cons.mp h'
      have := heq k hc.1 hc.2.1
      simp [Memory.lookup] at this
      exact absurd this.symm hc.2.2.1
  | cons c rest ih =>
    obtain ⟨k, v⟩ := c
    have hc := Memory.wfFrom_cons.mp h
    have hk := heq k hc.1 hc.2.1
    cases m' with
    | nil =>
      simp [Memory.lookup] at hk
      exact absurd hk hc.2.2.1
    | cons c' rest' =>
      obtain ⟨k', v'⟩ := c'
      have hc' := Memory.wfFrom_cons.mp h'
      have hk' := heq k' hc'.1 hc'.2.1
      have hkk : k = k' := by
        rcases Nat.lt_trichotomy k k' with hlt | heq' | hgt
        · rw [Memory.lookup, if_pos rfl, Memory.lookup, if_neg (by omega),
            Memory.lookup_below hc'.2.2.2 (by omega)] at hk
          exact absurd hk hc.2.2.1
        · exact heq'
        · rw [Memory.lookup, if_neg (by omega), Memory.lookup_below hc.2.2.2 (by omega),
            Memory.lookup, if_pos rfl] at hk'
          exact absurd hk'.symm hc'.2.2.1
      subst hkk
      have hv : v = v' := by simpa [Memory.lookup] using hk
      subst hv
      congr 1
      refine ih hc.2.2.2 hc'.2.2.2 (fun j hj hj2 => ?_)
      have := heq j (by omega) hj2
      simpa [Memory.lookup, show ¬ k = j by omega] using this

/-- Two memories in canonical form that read the same everywhere are equal. -/
theorem Memory.ext_of_read {m m' : Memory} (h : m.wf = true) (h' : m'.wf = true)
    (heq : ∀ addr, m.read addr = m'.read addr) : m = m' := by
  refine Memory.lookup_congr h h' (fun k _ hk => ?_)
  have := heq (BitVec.ofNat 16 k)
  simpa [Memory.read, Nat.mod_eq_of_lt hk] using this

/-! ## The memory image of a snapshot -/

@[simp] theorem Memory.length_toWordsFrom (m : Memory) (k n : Nat) : (m.toWordsFrom k n).length = n := by
  induction n generalizing k with
  | zero => rfl
  | succ n ih => simp [Memory.toWordsFrom, ih]

@[simp] theorem Memory.length_toWords (m : Memory) : m.toWords.length = 65536 := Memory.length_toWordsFrom m 0 65536

theorem Memory.getD_toWordsFrom (m : Memory) (k n i : Nat) (hi : i < n) :
    (m.toWordsFrom k n).getD i 0#16 = Memory.lookup (k + i) m := by
  induction n generalizing k i with
  | zero => omega
  | succ n ih =>
    cases i with
    | zero => rfl
    | succ i =>
      rw [Memory.toWordsFrom, List.getD_cons_succ, ih (k + 1) i (by omega)]
      congr 1
      omega

/-- A memory built from words is in canonical form. -/
theorem Memory.wfFrom_ofWordsFrom (k : Nat) (ws : List Word) (h : k + ws.length ≤ 65536) :
    Memory.wfFrom k (Memory.ofWordsFrom k ws) = true := by
  induction ws generalizing k with
  | nil => rfl
  | cons v vs ih =>
    simp only [List.length_cons] at h
    rw [Memory.ofWordsFrom]
    split_ifs with hv
    · exact Memory.wfFrom_mono (ih (k + 1) (by omega)) (by omega)
    · exact Memory.wfFrom_cons.mpr ⟨le_refl _, by omega, hv, ih (k + 1) (by omega)⟩

theorem Memory.lookup_ofWordsFrom (k : Nat) (ws : List Word) (h : k + ws.length ≤ 65536) (j : Nat) :
    Memory.lookup j (Memory.ofWordsFrom k ws) = if k ≤ j then ws.getD (j - k) 0#16 else 0#16 := by
  induction ws generalizing k with
  | nil => simp [Memory.ofWordsFrom, Memory.lookup]
  | cons v vs ih =>
    have hl : k + 1 + vs.length ≤ 65536 := by simp only [List.length_cons] at h; omega
    have key : Memory.lookup j (Memory.ofWordsFrom (k + 1) vs) = if k + 1 ≤ j then vs.getD (j - (k + 1)) 0#16 else 0#16 :=
      ih (k + 1) hl
    rw [Memory.ofWordsFrom]
    rcases Nat.lt_trichotomy j k with hlt | rfl | hgt
    · rw [if_neg (show ¬ k ≤ j by omega)]
      rw [if_neg (show ¬ k + 1 ≤ j by omega)] at key
      split_ifs with hv
      · exact key
      · simp only [Memory.lookup]
        rw [if_neg (by omega), key]
    · rw [if_pos (le_refl _), Nat.sub_self, List.getD_cons_zero]
      rw [if_neg (show ¬ j + 1 ≤ j by omega)] at key
      split_ifs with hv
      · rw [key, hv]
      · simp only [Memory.lookup, if_true]
    · rw [if_pos (show k ≤ j by omega), show j - k = j - (k + 1) + 1 by omega, List.getD_cons_succ]
      rw [if_pos (show k + 1 ≤ j by omega)] at key
      split_ifs with hv
      · exact key
      · simp only [Memory.lookup]
        rw [if_neg (by omega), key]

/-- A canonical memory is given back by its image (R504, R505). -/
theorem Memory.ofWords_toWords {m : Memory} (h : m.wf = true) : Memory.ofWords m.toWords = m := by
  refine Memory.ext_of_read (Memory.wfFrom_ofWordsFrom 0 _ (by simp)) h fun addr => ?_
  simp only [Memory.read, Memory.ofWords]
  rw [Memory.lookup_ofWordsFrom 0 _ (by simp)]
  simp only [Nat.zero_le, if_true, Nat.sub_zero, Memory.toWords]
  rw [Memory.getD_toWordsFrom _ _ _ _ addr.isLt, Nat.zero_add]

/-! ## Blocks -/

/-- A block of writes leaves every address outside the block alone. -/
theorem Memory.read_writeBlock_ne (vs : List Word) {m : Memory} {base addr : Word}
    (h : ∀ i < vs.length, addr ≠ base + BitVec.ofNat 16 i) : (m.writeBlock base vs).read addr = m.read addr := by
  induction vs generalizing m base with
  | nil => rfl
  | cons v vs ih =>
    rw [Memory.writeBlock, ih]
    · exact Memory.read_write_ne (by simpa using h 0 (by simp))
    · intro i hi e
      refine h (i + 1) (by simpa using hi) ?_
      rw [e]
      apply BitVec.eq_of_toNat_eq
      simp
      omega

/-- A block of at most 65536 writes stores each of its words, the addresses taken modulo 65536 (R77). -/
theorem Memory.read_writeBlock (vs : List Word) {m : Memory} (hw : m.wf = true) (base : Word) (hl : vs.length ≤ 65536)
    {i : Nat} (hi : i < vs.length) : (m.writeBlock base vs).read (base + BitVec.ofNat 16 i) = vs.getD i 0#16 := by
  induction vs generalizing m base i with
  | nil => simp at hi
  | cons v vs ih =>
    rw [Memory.writeBlock]
    cases i with
    | zero =>
      rw [Memory.read_writeBlock_ne]
      · simpa using Memory.read_write_same hw base v
      · intro i hi e
        have e := congrArg BitVec.toNat e
        simp at e hl
        omega
    | succ i =>
      rw [List.getD_cons_succ, ← ih (Memory.wf_write hw base v) (base + 1) (by simp at hl; omega) (by simpa using hi)]
      congr 1
      apply BitVec.eq_of_toNat_eq
      simp
      omega

end Sys2Proof.Machine
end

