-- ==== Sys2Proof/Laws/State.lean ====
section
/-! SUPPORT. One lemma per field per update of the state, each true by rfl, and the laws of the general registers. -/

namespace Sys2Proof.Machine

variable (s : State)

/-! ## setReg -/

@[simp] theorem State.setReg_gen (r : Reg) (v : Word) : (s.setReg r v).gen = writeReg s.gen r v := rfl
@[simp] theorem State.setReg_pc (r : Reg) (v : Word) : (s.setReg r v).pc = s.pc := rfl
@[simp] theorem State.setReg_sp (r : Reg) (v : Word) : (s.setReg r v).sp = s.sp := rfl
@[simp] theorem State.setReg_ex (r : Reg) (v : Word) : (s.setReg r v).ex = s.ex := rfl
@[simp] theorem State.setReg_ia (r : Reg) (v : Word) : (s.setReg r v).ia = s.ia := rfl
@[simp] theorem State.setReg_queueing (r : Reg) (v : Word) : (s.setReg r v).queueing = s.queueing := rfl
@[simp] theorem State.setReg_onFire (r : Reg) (v : Word) : (s.setReg r v).onFire = s.onFire := rfl
@[simp] theorem State.setReg_queue (r : Reg) (v : Word) : (s.setReg r v).queue = s.queue := rfl
@[simp] theorem State.setReg_cycles (r : Reg) (v : Word) : (s.setReg r v).cycles = s.cycles := rfl
@[simp] theorem State.setReg_wakeReq (r : Reg) (v : Word) : (s.setReg r v).wakeReq = s.wakeReq := rfl
@[simp] theorem State.setReg_pending (r : Reg) (v : Word) : (s.setReg r v).pending = s.pending := rfl
@[simp] theorem State.setReg_powered (r : Reg) (v : Word) : (s.setReg r v).powered = s.powered := rfl
@[simp] theorem State.setReg_mem (r : Reg) (v : Word) : (s.setReg r v).mem = s.mem := rfl
@[simp] theorem State.setReg_slots (r : Reg) (v : Word) : (s.setReg r v).slots = s.slots := rfl
@[simp] theorem State.setReg_params (r : Reg) (v : Word) : (s.setReg r v).params = s.params := rfl

/-! ## write -/

@[simp] theorem State.write_gen (addr v : Word) : (s.write addr v).gen = s.gen := rfl
@[simp] theorem State.write_pc (addr v : Word) : (s.write addr v).pc = s.pc := rfl
@[simp] theorem State.write_sp (addr v : Word) : (s.write addr v).sp = s.sp := rfl
@[simp] theorem State.write_ex (addr v : Word) : (s.write addr v).ex = s.ex := rfl
@[simp] theorem State.write_ia (addr v : Word) : (s.write addr v).ia = s.ia := rfl
@[simp] theorem State.write_queueing (addr v : Word) : (s.write addr v).queueing = s.queueing := rfl
@[simp] theorem State.write_onFire (addr v : Word) : (s.write addr v).onFire = s.onFire := rfl
@[simp] theorem State.write_queue (addr v : Word) : (s.write addr v).queue = s.queue := rfl
@[simp] theorem State.write_cycles (addr v : Word) : (s.write addr v).cycles = s.cycles := rfl
@[simp] theorem State.write_wakeReq (addr v : Word) : (s.write addr v).wakeReq = s.wakeReq := rfl
@[simp] theorem State.write_pending (addr v : Word) : (s.write addr v).pending = s.pending := rfl
@[simp] theorem State.write_powered (addr v : Word) : (s.write addr v).powered = s.powered := rfl
@[simp] theorem State.write_mem (addr v : Word) : (s.write addr v).mem = s.mem.write addr v := rfl
@[simp] theorem State.write_slots (addr v : Word) : (s.write addr v).slots = s.slots := rfl
@[simp] theorem State.write_params (addr v : Word) : (s.write addr v).params = s.params := rfl

/-! ## setPc -/

@[simp] theorem State.setPc_gen (v : Word) : (s.setPc v).gen = s.gen := rfl
@[simp] theorem State.setPc_pc (v : Word) : (s.setPc v).pc = v := rfl
@[simp] theorem State.setPc_sp (v : Word) : (s.setPc v).sp = s.sp := rfl
@[simp] theorem State.setPc_ex (v : Word) : (s.setPc v).ex = s.ex := rfl
@[simp] theorem State.setPc_ia (v : Word) : (s.setPc v).ia = s.ia := rfl
@[simp] theorem State.setPc_queueing (v : Word) : (s.setPc v).queueing = s.queueing := rfl
@[simp] theorem State.setPc_onFire (v : Word) : (s.setPc v).onFire = s.onFire := rfl
@[simp] theorem State.setPc_queue (v : Word) : (s.setPc v).queue = s.queue := rfl
@[simp] theorem State.setPc_cycles (v : Word) : (s.setPc v).cycles = s.cycles := rfl
@[simp] theorem State.setPc_wakeReq (v : Word) : (s.setPc v).wakeReq = s.wakeReq := rfl
@[simp] theorem State.setPc_pending (v : Word) : (s.setPc v).pending = s.pending := rfl
@[simp] theorem State.setPc_powered (v : Word) : (s.setPc v).powered = s.powered := rfl
@[simp] theorem State.setPc_mem (v : Word) : (s.setPc v).mem = s.mem := rfl
@[simp] theorem State.setPc_slots (v : Word) : (s.setPc v).slots = s.slots := rfl
@[simp] theorem State.setPc_params (v : Word) : (s.setPc v).params = s.params := rfl

/-! ## advancePc -/

@[simp] theorem State.advancePc_gen (n : Nat) : (s.advancePc n).gen = s.gen := rfl
@[simp] theorem State.advancePc_pc (n : Nat) : (s.advancePc n).pc = s.pc + BitVec.ofNat 16 n := rfl
@[simp] theorem State.advancePc_sp (n : Nat) : (s.advancePc n).sp = s.sp := rfl
@[simp] theorem State.advancePc_ex (n : Nat) : (s.advancePc n).ex = s.ex := rfl
@[simp] theorem State.advancePc_ia (n : Nat) : (s.advancePc n).ia = s.ia := rfl
@[simp] theorem State.advancePc_queueing (n : Nat) : (s.advancePc n).queueing = s.queueing := rfl
@[simp] theorem State.advancePc_onFire (n : Nat) : (s.advancePc n).onFire = s.onFire := rfl
@[simp] theorem State.advancePc_queue (n : Nat) : (s.advancePc n).queue = s.queue := rfl
@[simp] theorem State.advancePc_cycles (n : Nat) : (s.advancePc n).cycles = s.cycles := rfl
@[simp] theorem State.advancePc_wakeReq (n : Nat) : (s.advancePc n).wakeReq = s.wakeReq := rfl
@[simp] theorem State.advancePc_pending (n : Nat) : (s.advancePc n).pending = s.pending := rfl
@[simp] theorem State.advancePc_powered (n : Nat) : (s.advancePc n).powered = s.powered := rfl
@[simp] theorem State.advancePc_mem (n : Nat) : (s.advancePc n).mem = s.mem := rfl
@[simp] theorem State.advancePc_slots (n : Nat) : (s.advancePc n).slots = s.slots := rfl
@[simp] theorem State.advancePc_params (n : Nat) : (s.advancePc n).params = s.params := rfl

/-! ## setSp -/

@[simp] theorem State.setSp_gen (v : Word) : (s.setSp v).gen = s.gen := rfl
@[simp] theorem State.setSp_pc (v : Word) : (s.setSp v).pc = s.pc := rfl
@[simp] theorem State.setSp_sp (v : Word) : (s.setSp v).sp = v := rfl
@[simp] theorem State.setSp_ex (v : Word) : (s.setSp v).ex = s.ex := rfl
@[simp] theorem State.setSp_ia (v : Word) : (s.setSp v).ia = s.ia := rfl
@[simp] theorem State.setSp_queueing (v : Word) : (s.setSp v).queueing = s.queueing := rfl
@[simp] theorem State.setSp_onFire (v : Word) : (s.setSp v).onFire = s.onFire := rfl
@[simp] theorem State.setSp_queue (v : Word) : (s.setSp v).queue = s.queue := rfl
@[simp] theorem State.setSp_cycles (v : Word) : (s.setSp v).cycles = s.cycles := rfl
@[simp] theorem State.setSp_wakeReq (v : Word) : (s.setSp v).wakeReq = s.wakeReq := rfl
@[simp] theorem State.setSp_pending (v : Word) : (s.setSp v).pending = s.pending := rfl
@[simp] theorem State.setSp_powered (v : Word) : (s.setSp v).powered = s.powered := rfl
@[simp] theorem State.setSp_mem (v : Word) : (s.setSp v).mem = s.mem := rfl
@[simp] theorem State.setSp_slots (v : Word) : (s.setSp v).slots = s.slots := rfl
@[simp] theorem State.setSp_params (v : Word) : (s.setSp v).params = s.params := rfl

/-! ## setEx -/

@[simp] theorem State.setEx_gen (v : Word) : (s.setEx v).gen = s.gen := rfl
@[simp] theorem State.setEx_pc (v : Word) : (s.setEx v).pc = s.pc := rfl
@[simp] theorem State.setEx_sp (v : Word) : (s.setEx v).sp = s.sp := rfl
@[simp] theorem State.setEx_ex (v : Word) : (s.setEx v).ex = v := rfl
@[simp] theorem State.setEx_ia (v : Word) : (s.setEx v).ia = s.ia := rfl
@[simp] theorem State.setEx_queueing (v : Word) : (s.setEx v).queueing = s.queueing := rfl
@[simp] theorem State.setEx_onFire (v : Word) : (s.setEx v).onFire = s.onFire := rfl
@[simp] theorem State.setEx_queue (v : Word) : (s.setEx v).queue = s.queue := rfl
@[simp] theorem State.setEx_cycles (v : Word) : (s.setEx v).cycles = s.cycles := rfl
@[simp] theorem State.setEx_wakeReq (v : Word) : (s.setEx v).wakeReq = s.wakeReq := rfl
@[simp] theorem State.setEx_pending (v : Word) : (s.setEx v).pending = s.pending := rfl
@[simp] theorem State.setEx_powered (v : Word) : (s.setEx v).powered = s.powered := rfl
@[simp] theorem State.setEx_mem (v : Word) : (s.setEx v).mem = s.mem := rfl
@[simp] theorem State.setEx_slots (v : Word) : (s.setEx v).slots = s.slots := rfl
@[simp] theorem State.setEx_params (v : Word) : (s.setEx v).params = s.params := rfl

/-! ## setIa -/

@[simp] theorem State.setIa_gen (v : Word) : (s.setIa v).gen = s.gen := rfl
@[simp] theorem State.setIa_pc (v : Word) : (s.setIa v).pc = s.pc := rfl
@[simp] theorem State.setIa_sp (v : Word) : (s.setIa v).sp = s.sp := rfl
@[simp] theorem State.setIa_ex (v : Word) : (s.setIa v).ex = s.ex := rfl
@[simp] theorem State.setIa_ia (v : Word) : (s.setIa v).ia = v := rfl
@[simp] theorem State.setIa_queueing (v : Word) : (s.setIa v).queueing = s.queueing := rfl
@[simp] theorem State.setIa_onFire (v : Word) : (s.setIa v).onFire = s.onFire := rfl
@[simp] theorem State.setIa_queue (v : Word) : (s.setIa v).queue = s.queue := rfl
@[simp] theorem State.setIa_cycles (v : Word) : (s.setIa v).cycles = s.cycles := rfl
@[simp] theorem State.setIa_wakeReq (v : Word) : (s.setIa v).wakeReq = s.wakeReq := rfl
@[simp] theorem State.setIa_pending (v : Word) : (s.setIa v).pending = s.pending := rfl
@[simp] theorem State.setIa_powered (v : Word) : (s.setIa v).powered = s.powered := rfl
@[simp] theorem State.setIa_mem (v : Word) : (s.setIa v).mem = s.mem := rfl
@[simp] theorem State.setIa_slots (v : Word) : (s.setIa v).slots = s.slots := rfl
@[simp] theorem State.setIa_params (v : Word) : (s.setIa v).params = s.params := rfl

/-! ## setQueueing -/

@[simp] theorem State.setQueueing_gen (q : Bool) : (s.setQueueing q).gen = s.gen := rfl
@[simp] theorem State.setQueueing_pc (q : Bool) : (s.setQueueing q).pc = s.pc := rfl
@[simp] theorem State.setQueueing_sp (q : Bool) : (s.setQueueing q).sp = s.sp := rfl
@[simp] theorem State.setQueueing_ex (q : Bool) : (s.setQueueing q).ex = s.ex := rfl
@[simp] theorem State.setQueueing_ia (q : Bool) : (s.setQueueing q).ia = s.ia := rfl
@[simp] theorem State.setQueueing_queueing (q : Bool) : (s.setQueueing q).queueing = q := rfl
@[simp] theorem State.setQueueing_onFire (q : Bool) : (s.setQueueing q).onFire = s.onFire := rfl
@[simp] theorem State.setQueueing_queue (q : Bool) : (s.setQueueing q).queue = s.queue := rfl
@[simp] theorem State.setQueueing_cycles (q : Bool) : (s.setQueueing q).cycles = s.cycles := rfl
@[simp] theorem State.setQueueing_wakeReq (q : Bool) : (s.setQueueing q).wakeReq = s.wakeReq := rfl
@[simp] theorem State.setQueueing_pending (q : Bool) : (s.setQueueing q).pending = s.pending := rfl
@[simp] theorem State.setQueueing_powered (q : Bool) : (s.setQueueing q).powered = s.powered := rfl
@[simp] theorem State.setQueueing_mem (q : Bool) : (s.setQueueing q).mem = s.mem := rfl
@[simp] theorem State.setQueueing_slots (q : Bool) : (s.setQueueing q).slots = s.slots := rfl
@[simp] theorem State.setQueueing_params (q : Bool) : (s.setQueueing q).params = s.params := rfl

/-! ## charge -/

@[simp] theorem State.charge_gen (n : Nat) : (s.charge n).gen = s.gen := rfl
@[simp] theorem State.charge_pc (n : Nat) : (s.charge n).pc = s.pc := rfl
@[simp] theorem State.charge_sp (n : Nat) : (s.charge n).sp = s.sp := rfl
@[simp] theorem State.charge_ex (n : Nat) : (s.charge n).ex = s.ex := rfl
@[simp] theorem State.charge_ia (n : Nat) : (s.charge n).ia = s.ia := rfl
@[simp] theorem State.charge_queueing (n : Nat) : (s.charge n).queueing = s.queueing := rfl
@[simp] theorem State.charge_onFire (n : Nat) : (s.charge n).onFire = s.onFire := rfl
@[simp] theorem State.charge_queue (n : Nat) : (s.charge n).queue = s.queue := rfl
@[simp] theorem State.charge_cycles (n : Nat) : (s.charge n).cycles = s.cycles + n := rfl
@[simp] theorem State.charge_wakeReq (n : Nat) : (s.charge n).wakeReq = s.wakeReq := rfl
@[simp] theorem State.charge_pending (n : Nat) : (s.charge n).pending = s.pending := rfl
@[simp] theorem State.charge_powered (n : Nat) : (s.charge n).powered = s.powered := rfl
@[simp] theorem State.charge_mem (n : Nat) : (s.charge n).mem = s.mem := rfl
@[simp] theorem State.charge_slots (n : Nat) : (s.charge n).slots = s.slots := rfl
@[simp] theorem State.charge_params (n : Nat) : (s.charge n).params = s.params := rfl

/-! ## request -/

@[simp] theorem State.request_gen (ms : List Word) : (s.request ms).gen = s.gen := rfl
@[simp] theorem State.request_pc (ms : List Word) : (s.request ms).pc = s.pc := rfl
@[simp] theorem State.request_sp (ms : List Word) : (s.request ms).sp = s.sp := rfl
@[simp] theorem State.request_ex (ms : List Word) : (s.request ms).ex = s.ex := rfl
@[simp] theorem State.request_ia (ms : List Word) : (s.request ms).ia = s.ia := rfl
@[simp] theorem State.request_queueing (ms : List Word) : (s.request ms).queueing = s.queueing := rfl
@[simp] theorem State.request_onFire (ms : List Word) : (s.request ms).onFire = s.onFire := rfl
@[simp] theorem State.request_queue (ms : List Word) : (s.request ms).queue = s.queue := rfl
@[simp] theorem State.request_cycles (ms : List Word) : (s.request ms).cycles = s.cycles := rfl
@[simp] theorem State.request_wakeReq (ms : List Word) : (s.request ms).wakeReq = s.wakeReq := rfl
@[simp] theorem State.request_pending (ms : List Word) : (s.request ms).pending = s.pending ++ ms := rfl
@[simp] theorem State.request_powered (ms : List Word) : (s.request ms).powered = s.powered := rfl
@[simp] theorem State.request_mem (ms : List Word) : (s.request ms).mem = s.mem := rfl
@[simp] theorem State.request_slots (ms : List Word) : (s.request ms).slots = s.slots := rfl
@[simp] theorem State.request_params (ms : List Word) : (s.request ms).params = s.params := rfl

/-! ## setDeviceState -/

@[simp] theorem State.setDeviceState_gen (h : Nat) (d : Device) (ds : DeviceState) : (s.setDeviceState h d ds).gen = s.gen := rfl
@[simp] theorem State.setDeviceState_pc (h : Nat) (d : Device) (ds : DeviceState) : (s.setDeviceState h d ds).pc = s.pc := rfl
@[simp] theorem State.setDeviceState_sp (h : Nat) (d : Device) (ds : DeviceState) : (s.setDeviceState h d ds).sp = s.sp := rfl
@[simp] theorem State.setDeviceState_ex (h : Nat) (d : Device) (ds : DeviceState) : (s.setDeviceState h d ds).ex = s.ex := rfl
@[simp] theorem State.setDeviceState_ia (h : Nat) (d : Device) (ds : DeviceState) : (s.setDeviceState h d ds).ia = s.ia := rfl
@[simp] theorem State.setDeviceState_queueing (h : Nat) (d : Device) (ds : DeviceState) : (s.setDeviceState h d ds).queueing = s.queueing := rfl
@[simp] theorem State.setDeviceState_onFire (h : Nat) (d : Device) (ds : DeviceState) : (s.setDeviceState h d ds).onFire = s.onFire := rfl
@[simp] theorem State.setDeviceState_queue (h : Nat) (d : Device) (ds : DeviceState) : (s.setDeviceState h d ds).queue = s.queue := rfl
@[simp] theorem State.setDeviceState_cycles (h : Nat) (d : Device) (ds : DeviceState) : (s.setDeviceState h d ds).cycles = s.cycles := rfl
@[simp] theorem State.setDeviceState_wakeReq (h : Nat) (d : Device) (ds : DeviceState) : (s.setDeviceState h d ds).wakeReq = s.wakeReq := rfl
@[simp] theorem State.setDeviceState_pending (h : Nat) (d : Device) (ds : DeviceState) : (s.setDeviceState h d ds).pending = s.pending := rfl
@[simp] theorem State.setDeviceState_powered (h : Nat) (d : Device) (ds : DeviceState) : (s.setDeviceState h d ds).powered = s.powered := rfl
@[simp] theorem State.setDeviceState_mem (h : Nat) (d : Device) (ds : DeviceState) : (s.setDeviceState h d ds).mem = s.mem := rfl
@[simp] theorem State.setDeviceState_slots (h : Nat) (d : Device) (ds : DeviceState) : (s.setDeviceState h d ds).slots = s.slots.set h (.connected { d with state := ds }) := rfl
@[simp] theorem State.setDeviceState_params (h : Nat) (d : Device) (ds : DeviceState) : (s.setDeviceState h d ds).params = s.params := rfl

/-! ## push -/

@[simp] theorem State.push_gen (v : Word) : (s.push v).gen = s.gen := rfl
@[simp] theorem State.push_pc (v : Word) : (s.push v).pc = s.pc := rfl
@[simp] theorem State.push_sp (v : Word) : (s.push v).sp = s.sp - 1 := rfl
@[simp] theorem State.push_ex (v : Word) : (s.push v).ex = s.ex := rfl
@[simp] theorem State.push_ia (v : Word) : (s.push v).ia = s.ia := rfl
@[simp] theorem State.push_queueing (v : Word) : (s.push v).queueing = s.queueing := rfl
@[simp] theorem State.push_onFire (v : Word) : (s.push v).onFire = s.onFire := rfl
@[simp] theorem State.push_queue (v : Word) : (s.push v).queue = s.queue := rfl
@[simp] theorem State.push_cycles (v : Word) : (s.push v).cycles = s.cycles := rfl
@[simp] theorem State.push_wakeReq (v : Word) : (s.push v).wakeReq = s.wakeReq := rfl
@[simp] theorem State.push_pending (v : Word) : (s.push v).pending = s.pending := rfl
@[simp] theorem State.push_powered (v : Word) : (s.push v).powered = s.powered := rfl
@[simp] theorem State.push_mem (v : Word) : (s.push v).mem = s.mem.write (s.sp - 1) v := rfl
@[simp] theorem State.push_slots (v : Word) : (s.push v).slots = s.slots := rfl
@[simp] theorem State.push_params (v : Word) : (s.push v).params = s.params := rfl

/-! ## drop -/

@[simp] theorem State.drop_gen : s.drop.gen = s.gen := rfl
@[simp] theorem State.drop_pc : s.drop.pc = s.pc := rfl
@[simp] theorem State.drop_sp : s.drop.sp = s.sp + 1 := rfl
@[simp] theorem State.drop_ex : s.drop.ex = s.ex := rfl
@[simp] theorem State.drop_ia : s.drop.ia = s.ia := rfl
@[simp] theorem State.drop_queueing : s.drop.queueing = s.queueing := rfl
@[simp] theorem State.drop_onFire : s.drop.onFire = s.onFire := rfl
@[simp] theorem State.drop_queue : s.drop.queue = s.queue := rfl
@[simp] theorem State.drop_cycles : s.drop.cycles = s.cycles := rfl
@[simp] theorem State.drop_wakeReq : s.drop.wakeReq = s.wakeReq := rfl
@[simp] theorem State.drop_pending : s.drop.pending = s.pending := rfl
@[simp] theorem State.drop_powered : s.drop.powered = s.powered := rfl
@[simp] theorem State.drop_mem : s.drop.mem = s.mem := rfl
@[simp] theorem State.drop_slots : s.drop.slots = s.slots := rfl
@[simp] theorem State.drop_params : s.drop.params = s.params := rfl

/-! ## deliver (R457, R460) -/

@[simp] theorem State.deliver_gen (m : Word) : (s.deliver m).gen = writeReg s.gen .a m := rfl
@[simp] theorem State.deliver_pc (m : Word) : (s.deliver m).pc = s.ia := rfl
@[simp] theorem State.deliver_sp (m : Word) : (s.deliver m).sp = s.sp - 1 - 1 := rfl
@[simp] theorem State.deliver_ex (m : Word) : (s.deliver m).ex = s.ex := rfl
@[simp] theorem State.deliver_ia (m : Word) : (s.deliver m).ia = s.ia := rfl
@[simp] theorem State.deliver_queueing (m : Word) : (s.deliver m).queueing = true := rfl
@[simp] theorem State.deliver_onFire (m : Word) : (s.deliver m).onFire = s.onFire := rfl
@[simp] theorem State.deliver_queue (m : Word) : (s.deliver m).queue = s.queue := rfl
@[simp] theorem State.deliver_cycles (m : Word) : (s.deliver m).cycles = s.cycles := rfl
@[simp] theorem State.deliver_wakeReq (m : Word) : (s.deliver m).wakeReq = s.wakeReq := rfl
@[simp] theorem State.deliver_pending (m : Word) : (s.deliver m).pending = s.pending := rfl
@[simp] theorem State.deliver_powered (m : Word) : (s.deliver m).powered = s.powered := rfl
@[simp] theorem State.deliver_mem (m : Word) : (s.deliver m).mem = (s.mem.write (s.sp - 1) s.pc).write (s.sp - 1 - 1) s.gen.a := rfl
@[simp] theorem State.deliver_slots (m : Word) : (s.deliver m).slots = s.slots := rfl
@[simp] theorem State.deliver_params (m : Word) : (s.deliver m).params = s.params := rfl

/-! ## returnFromInterrupt (R284) -/

@[simp] theorem State.returnFromInterrupt_gen : s.returnFromInterrupt.gen = writeReg s.gen .a (s.read s.sp) := rfl
@[simp] theorem State.returnFromInterrupt_pc : s.returnFromInterrupt.pc = s.read (s.sp + 1) := rfl
@[simp] theorem State.returnFromInterrupt_sp : s.returnFromInterrupt.sp = s.sp + 1 + 1 := rfl
@[simp] theorem State.returnFromInterrupt_ex : s.returnFromInterrupt.ex = s.ex := rfl
@[simp] theorem State.returnFromInterrupt_ia : s.returnFromInterrupt.ia = s.ia := rfl
@[simp] theorem State.returnFromInterrupt_queueing : s.returnFromInterrupt.queueing = false := rfl
@[simp] theorem State.returnFromInterrupt_onFire : s.returnFromInterrupt.onFire = s.onFire := rfl
@[simp] theorem State.returnFromInterrupt_queue : s.returnFromInterrupt.queue = s.queue := rfl
@[simp] theorem State.returnFromInterrupt_cycles : s.returnFromInterrupt.cycles = s.cycles := rfl
@[simp] theorem State.returnFromInterrupt_wakeReq : s.returnFromInterrupt.wakeReq = s.wakeReq := rfl
@[simp] theorem State.returnFromInterrupt_pending : s.returnFromInterrupt.pending = s.pending := rfl
@[simp] theorem State.returnFromInterrupt_powered : s.returnFromInterrupt.powered = s.powered := rfl
@[simp] theorem State.returnFromInterrupt_mem : s.returnFromInterrupt.mem = s.mem := rfl
@[simp] theorem State.returnFromInterrupt_slots : s.returnFromInterrupt.slots = s.slots := rfl
@[simp] theorem State.returnFromInterrupt_params : s.returnFromInterrupt.params = s.params := rfl

/-! ## Registers -/

/-- A general register reads what was written to it, and no other one changes. -/
theorem readReg_writeReg (g : GenRegs) (r r' : Reg) (v : Word) :
    readReg (writeReg g r v) r' = if r' = r then v else readReg g r' := by
  cases r <;> cases r' <;> rfl

@[simp] theorem readReg_writeReg_same (g : GenRegs) (r : Reg) (v : Word) : readReg (writeReg g r v) r = v := by
  simp [readReg_writeReg]

theorem readReg_writeReg_ne (g : GenRegs) {r r' : Reg} (v : Word) (h : r' ≠ r) :
    readReg (writeReg g r v) r' = readReg g r' := by
  simp [readReg_writeReg, h]

@[simp] theorem readReg_a (g : GenRegs) : readReg g .a = g.a := rfl

end Sys2Proof.Machine
end

