-- ==== Sys2Proof/Laws/Ops.lean ====
section
/-! SUPPORT. The interrupt controller: everything Trigger, the drain of pending and the dispatch can do, said once. -/

namespace Sys2Proof.Machine

variable (s : State)

/-- Everything `Trigger` can do (R455): nothing, an append to the queue, or a delivery. -/
theorem State.trigger_cases (m : Word) :
    (s.trigger m = s ∧ (s.powered = false ∨ s.ia = 0#16)) ∨
    (s.trigger m = State.enqueue { s with wakeReq := true } m ∧
      s.powered = true ∧ s.ia ≠ 0#16 ∧ s.queueing = true) ∨
    (s.trigger m = State.deliver { s with wakeReq := true } m ∧
      s.powered = true ∧ s.ia ≠ 0#16 ∧ s.queueing = false) := by
  unfold State.trigger
  cases hp : s.powered
  · exact .inl ⟨rfl, .inl rfl⟩
  · by_cases hi : s.ia = 0#16
    · exact .inl ⟨by simp [hi], .inr hi⟩
    · cases hq : s.queueing
      · exact .inr (.inr ⟨by simp [hi], rfl, hi, rfl⟩)
      · exact .inr (.inl ⟨by simp [hi], rfl, hi, rfl⟩)

/-- Everything the boundary dispatch can do (R458): nothing, a discard, or a delivery of the head of the queue. -/
theorem State.dispatch_cases :
    (s.dispatch = s ∧ (s.queue = [] ∨ s.queueing = true)) ∨
    (∃ m q, s.queue = m :: q ∧ s.queueing = false ∧ s.ia = 0#16 ∧ s.dispatch = { s with queue := q }) ∨
    (∃ m q, s.queue = m :: q ∧ s.queueing = false ∧ s.ia ≠ 0#16 ∧
      s.dispatch = State.deliver { s with queue := q } m) := by
  unfold State.dispatch
  cases hq : s.queue with
  | nil => exact .inl ⟨rfl, .inl rfl⟩
  | cons m q =>
    cases hf : s.queueing
    · by_cases hi : s.ia = 0#16
      · exact .inr (.inl ⟨m, q, rfl, rfl, hi, by simp [hi]⟩)
      · exact .inr (.inr ⟨m, q, rfl, rfl, hi, by simp [hi]⟩)
    · exact .inl ⟨rfl, .inr rfl⟩

/-! ## What an interrupt leaves alone -/

@[simp] theorem State.enqueue_ex (m : Word) : (s.enqueue m).ex = s.ex := rfl
@[simp] theorem State.enqueue_ia (m : Word) : (s.enqueue m).ia = s.ia := rfl
@[simp] theorem State.enqueue_cycles (m : Word) : (s.enqueue m).cycles = s.cycles := rfl
@[simp] theorem State.enqueue_pending (m : Word) : (s.enqueue m).pending = s.pending := rfl
@[simp] theorem State.enqueue_powered (m : Word) : (s.enqueue m).powered = s.powered := rfl
@[simp] theorem State.enqueue_slots (m : Word) : (s.enqueue m).slots = s.slots := rfl
@[simp] theorem State.enqueue_params (m : Word) : (s.enqueue m).params = s.params := rfl

@[simp] theorem State.enqueue_gen (m : Word) : (s.enqueue m).gen = s.gen := rfl
@[simp] theorem State.enqueue_pc (m : Word) : (s.enqueue m).pc = s.pc := rfl
@[simp] theorem State.enqueue_sp (m : Word) : (s.enqueue m).sp = s.sp := rfl
@[simp] theorem State.enqueue_mem (m : Word) : (s.enqueue m).mem = s.mem := rfl
@[simp] theorem State.enqueue_queueing (m : Word) : (s.enqueue m).queueing = s.queueing := rfl
@[simp] theorem State.enqueue_wakeReq (m : Word) : (s.enqueue m).wakeReq = s.wakeReq := rfl

@[simp] theorem State.trigger_ex (m : Word) : (s.trigger m).ex = s.ex := by
  rcases s.trigger_cases m with ⟨h, -⟩ | ⟨h, -⟩ | ⟨h, -⟩ <;> simp [h]

@[simp] theorem State.trigger_ia (m : Word) : (s.trigger m).ia = s.ia := by
  rcases s.trigger_cases m with ⟨h, -⟩ | ⟨h, -⟩ | ⟨h, -⟩ <;> simp [h]

@[simp] theorem State.trigger_cycles (m : Word) : (s.trigger m).cycles = s.cycles := by
  rcases s.trigger_cases m with ⟨h, -⟩ | ⟨h, -⟩ | ⟨h, -⟩ <;> simp [h]

@[simp] theorem State.trigger_pending (m : Word) : (s.trigger m).pending = s.pending := by
  rcases s.trigger_cases m with ⟨h, -⟩ | ⟨h, -⟩ | ⟨h, -⟩ <;> simp [h]

@[simp] theorem State.trigger_powered (m : Word) : (s.trigger m).powered = s.powered := by
  rcases s.trigger_cases m with ⟨h, -⟩ | ⟨h, -⟩ | ⟨h, -⟩ <;> simp [h]

@[simp] theorem State.trigger_slots (m : Word) : (s.trigger m).slots = s.slots := by
  rcases s.trigger_cases m with ⟨h, -⟩ | ⟨h, -⟩ | ⟨h, -⟩ <;> simp [h]

@[simp] theorem State.trigger_params (m : Word) : (s.trigger m).params = s.params := by
  rcases s.trigger_cases m with ⟨h, -⟩ | ⟨h, -⟩ | ⟨h, -⟩ <;> simp [h]

@[simp] theorem State.triggerAll_ex (ms : List Word) : (s.triggerAll ms).ex = s.ex := by
  induction ms generalizing s with
  | nil => rfl
  | cons m ms ih => rw [State.triggerAll, ih, State.trigger_ex]

@[simp] theorem State.triggerAll_ia (ms : List Word) : (s.triggerAll ms).ia = s.ia := by
  induction ms generalizing s with
  | nil => rfl
  | cons m ms ih => rw [State.triggerAll, ih, State.trigger_ia]

@[simp] theorem State.triggerAll_cycles (ms : List Word) : (s.triggerAll ms).cycles = s.cycles := by
  induction ms generalizing s with
  | nil => rfl
  | cons m ms ih => rw [State.triggerAll, ih, State.trigger_cycles]

@[simp] theorem State.triggerAll_pending (ms : List Word) : (s.triggerAll ms).pending = s.pending := by
  induction ms generalizing s with
  | nil => rfl
  | cons m ms ih => rw [State.triggerAll, ih, State.trigger_pending]

@[simp] theorem State.triggerAll_powered (ms : List Word) : (s.triggerAll ms).powered = s.powered := by
  induction ms generalizing s with
  | nil => rfl
  | cons m ms ih => rw [State.triggerAll, ih, State.trigger_powered]

@[simp] theorem State.triggerAll_slots (ms : List Word) : (s.triggerAll ms).slots = s.slots := by
  induction ms generalizing s with
  | nil => rfl
  | cons m ms ih => rw [State.triggerAll, ih, State.trigger_slots]

@[simp] theorem State.triggerAll_params (ms : List Word) : (s.triggerAll ms).params = s.params := by
  induction ms generalizing s with
  | nil => rfl
  | cons m ms ih => rw [State.triggerAll, ih, State.trigger_params]

@[simp] theorem State.drainPending_ex : s.drainPending.ex = s.ex := s.triggerAll_ex s.pending

@[simp] theorem State.drainPending_ia : s.drainPending.ia = s.ia := s.triggerAll_ia s.pending

@[simp] theorem State.drainPending_cycles : s.drainPending.cycles = s.cycles := s.triggerAll_cycles s.pending

@[simp] theorem State.drainPending_powered : s.drainPending.powered = s.powered := s.triggerAll_powered s.pending

@[simp] theorem State.drainPending_slots : s.drainPending.slots = s.slots := s.triggerAll_slots s.pending

@[simp] theorem State.drainPending_params : s.drainPending.params = s.params := s.triggerAll_params s.pending

@[simp] theorem State.drainPending_pending : s.drainPending.pending = [] := rfl

/-- With nothing requested the drain changes nothing. -/
theorem State.drainPending_of_nil (h : s.pending = []) : s.drainPending = s := by
  cases s; subst h; rfl

/-- The drain is done once: a second one changes nothing. -/
@[simp] theorem State.drainPending_drainPending : s.drainPending.drainPending = s.drainPending :=
  s.drainPending.drainPending_of_nil rfl

@[simp] theorem State.dispatch_ex : s.dispatch.ex = s.ex := by
  rcases s.dispatch_cases with ⟨h, -⟩ | ⟨m, q, -, -, -, h⟩ | ⟨m, q, -, -, -, h⟩ <;> simp [h]

@[simp] theorem State.dispatch_ia : s.dispatch.ia = s.ia := by
  rcases s.dispatch_cases with ⟨h, -⟩ | ⟨m, q, -, -, -, h⟩ | ⟨m, q, -, -, -, h⟩ <;> simp [h]

@[simp] theorem State.dispatch_cycles : s.dispatch.cycles = s.cycles := by
  rcases s.dispatch_cases with ⟨h, -⟩ | ⟨m, q, -, -, -, h⟩ | ⟨m, q, -, -, -, h⟩ <;> simp [h]

@[simp] theorem State.dispatch_pending : s.dispatch.pending = s.pending := by
  rcases s.dispatch_cases with ⟨h, -⟩ | ⟨m, q, -, -, -, h⟩ | ⟨m, q, -, -, -, h⟩ <;> simp [h]

@[simp] theorem State.dispatch_powered : s.dispatch.powered = s.powered := by
  rcases s.dispatch_cases with ⟨h, -⟩ | ⟨m, q, -, -, -, h⟩ | ⟨m, q, -, -, -, h⟩ <;> simp [h]

@[simp] theorem State.dispatch_slots : s.dispatch.slots = s.slots := by
  rcases s.dispatch_cases with ⟨h, -⟩ | ⟨m, q, -, -, -, h⟩ | ⟨m, q, -, -, -, h⟩ <;> simp [h]

@[simp] theorem State.dispatch_params : s.dispatch.params = s.params := by
  rcases s.dispatch_cases with ⟨h, -⟩ | ⟨m, q, -, -, -, h⟩ | ⟨m, q, -, -, -, h⟩ <;> simp [h]

@[simp] theorem State.dispatch_onFire : s.dispatch.onFire = s.onFire := by
  rcases s.dispatch_cases with ⟨h, -⟩ | ⟨m, q, -, -, -, h⟩ | ⟨m, q, -, -, -, h⟩ <;> simp [h]

@[simp] theorem State.dispatch_wakeReq : s.dispatch.wakeReq = s.wakeReq := by
  rcases s.dispatch_cases with ⟨h, -⟩ | ⟨m, q, -, -, -, h⟩ | ⟨m, q, -, -, -, h⟩ <;> simp [h]

/-! ## The canonical form of memory -/

theorem State.wf_deliver {s : State} (h : s.mem.wf = true) (m : Word) : (s.deliver m).mem.wf = true := by
  rw [State.deliver_mem]
  exact Memory.wf_write (Memory.wf_write h _ _) _ _

theorem State.wf_trigger {s : State} (h : s.mem.wf = true) (m : Word) : (s.trigger m).mem.wf = true := by
  rcases s.trigger_cases m with ⟨e, -⟩ | ⟨e, -⟩ | ⟨e, -⟩ <;> rw [e]
  · exact h
  · exact h
  · exact State.wf_deliver h m

theorem State.wf_triggerAll {s : State} (h : s.mem.wf = true) (ms : List Word) : (s.triggerAll ms).mem.wf = true := by
  induction ms generalizing s with
  | nil => exact h
  | cons m ms ih => exact ih (State.wf_trigger h m)

theorem State.wf_drainPending {s : State} (h : s.mem.wf = true) : s.drainPending.mem.wf = true :=
  State.wf_triggerAll h s.pending

theorem State.wf_dispatch {s : State} (h : s.mem.wf = true) : s.dispatch.mem.wf = true := by
  rcases s.dispatch_cases with ⟨e, -⟩ | ⟨m, q, -, -, -, e⟩ | ⟨m, q, -, -, -, e⟩ <;> rw [e]
  · exact h
  · exact h
  · exact State.wf_deliver (s := { s with queue := q }) h m

end Sys2Proof.Machine
end

