-- ==== Sys2Proof/Laws/Operands.lean ====
section
/-! SUPPORT. What resolving operands and writing a location can change, said once: resolution moves PC past the next words
and SP by the stack form, and nothing else; a write changes its location only. -/

namespace Sys2Proof.Machine

variable (s : State)

@[simp] theorem srcAfter_gen (a : SrcOperand) : (srcAfter s a).gen = s.gen := by
  cases a <;> rfl

@[simp] theorem srcAfter_ex (a : SrcOperand) : (srcAfter s a).ex = s.ex := by
  cases a <;> rfl

@[simp] theorem srcAfter_ia (a : SrcOperand) : (srcAfter s a).ia = s.ia := by
  cases a <;> rfl

@[simp] theorem srcAfter_queueing (a : SrcOperand) : (srcAfter s a).queueing = s.queueing := by
  cases a <;> rfl

@[simp] theorem srcAfter_onFire (a : SrcOperand) : (srcAfter s a).onFire = s.onFire := by
  cases a <;> rfl

@[simp] theorem srcAfter_queue (a : SrcOperand) : (srcAfter s a).queue = s.queue := by
  cases a <;> rfl

@[simp] theorem srcAfter_cycles (a : SrcOperand) : (srcAfter s a).cycles = s.cycles := by
  cases a <;> rfl

@[simp] theorem srcAfter_wakeReq (a : SrcOperand) : (srcAfter s a).wakeReq = s.wakeReq := by
  cases a <;> rfl

@[simp] theorem srcAfter_pending (a : SrcOperand) : (srcAfter s a).pending = s.pending := by
  cases a <;> rfl

@[simp] theorem srcAfter_powered (a : SrcOperand) : (srcAfter s a).powered = s.powered := by
  cases a <;> rfl

@[simp] theorem srcAfter_mem (a : SrcOperand) : (srcAfter s a).mem = s.mem := by
  cases a <;> rfl

@[simp] theorem srcAfter_slots (a : SrcOperand) : (srcAfter s a).slots = s.slots := by
  cases a <;> rfl

@[simp] theorem srcAfter_params (a : SrcOperand) : (srcAfter s a).params = s.params := by
  cases a <;> rfl

@[simp] theorem dstAfter_gen (b : DstOperand) : (dstAfter s b).gen = s.gen := by
  cases b <;> rfl

@[simp] theorem dstAfter_ex (b : DstOperand) : (dstAfter s b).ex = s.ex := by
  cases b <;> rfl

@[simp] theorem dstAfter_ia (b : DstOperand) : (dstAfter s b).ia = s.ia := by
  cases b <;> rfl

@[simp] theorem dstAfter_queueing (b : DstOperand) : (dstAfter s b).queueing = s.queueing := by
  cases b <;> rfl

@[simp] theorem dstAfter_onFire (b : DstOperand) : (dstAfter s b).onFire = s.onFire := by
  cases b <;> rfl

@[simp] theorem dstAfter_queue (b : DstOperand) : (dstAfter s b).queue = s.queue := by
  cases b <;> rfl

@[simp] theorem dstAfter_cycles (b : DstOperand) : (dstAfter s b).cycles = s.cycles := by
  cases b <;> rfl

@[simp] theorem dstAfter_wakeReq (b : DstOperand) : (dstAfter s b).wakeReq = s.wakeReq := by
  cases b <;> rfl

@[simp] theorem dstAfter_pending (b : DstOperand) : (dstAfter s b).pending = s.pending := by
  cases b <;> rfl

@[simp] theorem dstAfter_powered (b : DstOperand) : (dstAfter s b).powered = s.powered := by
  cases b <;> rfl

@[simp] theorem dstAfter_mem (b : DstOperand) : (dstAfter s b).mem = s.mem := by
  cases b <;> rfl

@[simp] theorem dstAfter_slots (b : DstOperand) : (dstAfter s b).slots = s.slots := by
  cases b <;> rfl

@[simp] theorem dstAfter_params (b : DstOperand) : (dstAfter s b).params = s.params := by
  cases b <;> rfl

/-- PC after an a operand is past the operand's next word (R142). -/
@[simp] theorem srcAfter_pc (a : SrcOperand) : (srcAfter s a).pc = s.pc + BitVec.ofNat 16 a.nextWords.length := by
  cases a <;> simp [srcAfter, SrcOperand.nextWords]

/-- PC after a b operand is past the operand's next word (R142). -/
@[simp] theorem dstAfter_pc (b : DstOperand) : (dstAfter s b).pc = s.pc + BitVec.ofNat 16 b.nextWords.length := by
  cases b <;> simp [dstAfter, DstOperand.nextWords]

/-- SP after an a operand: POP increments it (R146). -/
theorem srcAfter_sp (a : SrcOperand) : (srcAfter s a).sp = if a = .pop then s.sp + 1 else s.sp := by
  cases a <;> simp [srcAfter]

/-- SP after a b operand: PUSH decrements it (R147). -/
theorem dstAfter_sp (b : DstOperand) : (dstAfter s b).sp = if b = .push then s.sp - 1 else s.sp := by
  cases b <;> simp [dstAfter]

/-- The state after `ResolveA`. -/
@[simp] theorem resolveA_st (a : SrcOperand) : (resolveA a s).st = srcAfter s a := rfl

/-- The state after `ResolveA` and `ResolveB`. -/
@[simp] theorem resolve_st (b : DstOperand) (a : SrcOperand) : (resolve b a s).st = dstAfter (srcAfter s a) b := rfl

@[simp] theorem resolveA_cost (a : SrcOperand) : (resolveA a s).cost = a.nextWords.length := rfl

@[simp] theorem resolve_cost (b : DstOperand) (a : SrcOperand) :
    (resolve b a s).cost = a.nextWords.length + b.nextWords.length := rfl

/-! ## Writing a location -/

@[simp] theorem State.writeLoc_ia (l : Loc) (v : Word) : (s.writeLoc l v).ia = s.ia := by
  cases l <;> rfl

@[simp] theorem State.writeLoc_queueing (l : Loc) (v : Word) : (s.writeLoc l v).queueing = s.queueing := by
  cases l <;> rfl

@[simp] theorem State.writeLoc_onFire (l : Loc) (v : Word) : (s.writeLoc l v).onFire = s.onFire := by
  cases l <;> rfl

@[simp] theorem State.writeLoc_queue (l : Loc) (v : Word) : (s.writeLoc l v).queue = s.queue := by
  cases l <;> rfl

@[simp] theorem State.writeLoc_cycles (l : Loc) (v : Word) : (s.writeLoc l v).cycles = s.cycles := by
  cases l <;> rfl

@[simp] theorem State.writeLoc_wakeReq (l : Loc) (v : Word) : (s.writeLoc l v).wakeReq = s.wakeReq := by
  cases l <;> rfl

@[simp] theorem State.writeLoc_pending (l : Loc) (v : Word) : (s.writeLoc l v).pending = s.pending := by
  cases l <;> rfl

@[simp] theorem State.writeLoc_powered (l : Loc) (v : Word) : (s.writeLoc l v).powered = s.powered := by
  cases l <;> rfl

@[simp] theorem State.writeLoc_slots (l : Loc) (v : Word) : (s.writeLoc l v).slots = s.slots := by
  cases l <;> rfl

@[simp] theorem State.writeLoc_params (l : Loc) (v : Word) : (s.writeLoc l v).params = s.params := by
  cases l <;> rfl

theorem State.writeLoc_reg_ne (l : Loc) (v : Word) {r : Reg} (h : l ≠ .reg r) :
    readReg (s.writeLoc l v).gen r = readReg s.gen r := by
  cases l <;> try rfl
  rename_i r'
  exact readReg_writeReg_ne _ _ (fun e => h (by rw [e]))

theorem State.writeLoc_pc_ne (l : Loc) (v : Word) (h : l ≠ .pc) : (s.writeLoc l v).pc = s.pc := by
  cases l <;> first | rfl | exact absurd rfl h

theorem State.writeLoc_sp_ne (l : Loc) (v : Word) (h : l ≠ .sp) : (s.writeLoc l v).sp = s.sp := by
  cases l <;> first | rfl | exact absurd rfl h

theorem State.writeLoc_ex_ne (l : Loc) (v : Word) (h : l ≠ .ex) : (s.writeLoc l v).ex = s.ex := by
  cases l <;> first | rfl | exact absurd rfl h

theorem State.writeLoc_read_ne (l : Loc) (v : Word) {addr : Word} (h : l ≠ .mem addr) :
    (s.writeLoc l v).mem.read addr = s.mem.read addr := by
  cases l <;> try rfl
  rename_i addr'
  exact Memory.read_write_ne (fun e => h (by rw [e]))

theorem State.wf_writeLoc {s : State} (h : s.mem.wf = true) (l : Loc) (v : Word) : (s.writeLoc l v).mem.wf = true := by
  cases l <;> first | exact h | exact Memory.wf_write h _ _

/-- What a location holds after a write to it, unless it is a literal (R14, R109). -/
theorem State.readLoc_writeLoc {s : State} (h : s.mem.wf = true) (l : Loc) (v : Word) (hl : ∀ w, l ≠ .lit w) :
    (s.writeLoc l v).readLoc l = v := by
  cases l with
  | reg r => exact readReg_writeReg_same _ _ _
  | mem a => exact Memory.read_write_same h _ _
  | lit w => exact absurd rfl (hl w)
  | sp => rfl
  | pc => rfl
  | ex => rfl

/-- A literal destination discards the write (R109). -/
@[simp] theorem State.writeLoc_lit (w v : Word) : s.writeLoc (.lit w) v = s := rfl

end Sys2Proof.Machine
end

