-- ==== Sys2Proof/Laws/Devices.lean ====
section
/-! SUPPORT. The devices: what a handler may touch (46_hardware_bus.md R307), and that every operation of a device keeps its
local state legal. -/

namespace Sys2Proof.Machine

/-! ## Time -/

/-- What is left after the whole periods is not negative and below the period (R335, R379). -/
theorem wholePeriods_spec {acc period : Rat} (hacc : 0 ≤ acc) (hp : 0 < period) :
    0 ≤ acc - (wholePeriods acc period : Rat) * period ∧
      acc - (wholePeriods acc period : Rat) * period < period := by
  have hq : 0 ≤ acc / period := div_nonneg hacc hp.le
  have hf : 0 ≤ ⌊acc / period⌋ := Int.floor_nonneg.mpr hq
  have hk : ((wholePeriods acc period : ℕ) : Rat) = ((⌊acc / period⌋ : ℤ) : Rat) := by
    have : ((⌊acc / period⌋.toNat : ℕ) : ℤ) = ⌊acc / period⌋ := Int.toNat_of_nonneg hf
    exact_mod_cast this
  rw [hk]
  have h1 := Int.floor_le (acc / period)
  have h2 := Int.lt_floor_add_one (acc / period)
  rw [le_div_iff₀ hp] at h1
  rw [div_lt_iff₀ hp] at h2
  constructor <;> linarith

/-- The number of whole periods is the one `k` that leaves a rest in the period (R335). -/
theorem wholePeriods_eq {acc period : Rat} (hp : 0 < period) {k : ℕ} (h1 : (k : Rat) * period ≤ acc)
    (h2 : acc < ((k : Rat) + 1) * period) : wholePeriods acc period = k := by
  have : ⌊acc / period⌋ = (k : ℤ) := by
    rw [Int.floor_eq_iff]
    constructor
    · rw [le_div_iff₀ hp]; exact_mod_cast h1
    · rw [div_lt_iff₀ hp]; exact_mod_cast h2
  change ⌊acc / period⌋.toNat = k
  rw [this]; rfl

/-- What the types of the parameters say (R9). -/
theorem Parameters.wf_iff {p : Parameters} :
    p.wf = true ↔ 0 < p.clockBaseHz ∧ p.defaultPalette.length = 16 ∧ 0 < p.blinkPeriod ∧ 0 < p.floppySectorWords ∧
      0 < p.floppySectorsPerTrack ∧ 0 < p.floppyTracks ∧ 0 ≤ p.floppySeekTimePerTrack ∧ 0 ≤ p.floppySectorTime := by
  simp [Parameters.wf, and_assoc]

theorem clockPeriod_pos {p : Parameters} (hp : p.wf = true) {d : ClockState} (h : d.period ≠ 0#16) :
    0 < clockPeriod p d := by
  have : 0 < d.period.toNat := Nat.pos_of_ne_zero (fun e => h (BitVec.eq_of_toNat_eq (by simpa using e)))
  have hb := (Parameters.wf_iff.mp hp).1
  unfold clockPeriod
  positivity

/-! ## What a handler touches -/

/-- `t` is `s` after device code ran inside HWI: at most registers, memory and `pending` differ, and `pending` only
grew (R307, R308). -/
structure Touched (s t : State) : Prop where
  queueing : t.queueing = s.queueing
  onFire : t.onFire = s.onFire
  queue : t.queue = s.queue
  cycles : t.cycles = s.cycles
  wakeReq : t.wakeReq = s.wakeReq
  powered : t.powered = s.powered
  slots : t.slots = s.slots
  params : t.params = s.params
  pending : ∃ ms, t.pending = s.pending ++ ms
  memory : s.mem.wf = true → t.mem.wf = true

theorem Touched.refl (s : State) : Touched s s :=
  ⟨rfl, rfl, rfl, rfl, rfl, rfl, rfl, rfl, ⟨[], by simp⟩, id⟩

theorem Touched.trans {s t u : State} (h : Touched s t) (h' : Touched t u) : Touched s u := by
  obtain ⟨ms, hm⟩ := h.pending
  obtain ⟨ms', hm'⟩ := h'.pending
  exact ⟨h'.queueing.trans h.queueing, h'.onFire.trans h.onFire, h'.queue.trans h.queue, h'.cycles.trans h.cycles,
    h'.wakeReq.trans h.wakeReq, h'.powered.trans h.powered, h'.slots.trans h.slots,
    h'.params.trans h.params,
    ⟨ms ++ ms', by rw [hm', hm, List.append_assoc]⟩, fun w => h'.memory (h.memory w)⟩

theorem Touched.setReg (s : State) (r : Reg) (v : Word) : Touched s (s.setReg r v) :=
  ⟨rfl, rfl, rfl, rfl, rfl, rfl, rfl, rfl, ⟨[], by simp⟩, id⟩

theorem Touched.write (s : State) (addr v : Word) : Touched s (s.write addr v) :=
  ⟨rfl, rfl, rfl, rfl, rfl, rfl, rfl, rfl, ⟨[], by simp⟩, fun h => Memory.wf_write h _ _⟩

theorem Touched.writeBlock (s : State) (base : Word) (vs : List Word) :
    Touched s { s with mem := s.mem.writeBlock base vs } :=
  ⟨rfl, rfl, rfl, rfl, rfl, rfl, rfl, rfl, ⟨[], by simp⟩, fun h => Memory.wf_writeBlock h _ _⟩

theorem Touched.request (s : State) (ms : List Word) : Touched s (s.request ms) :=
  ⟨rfl, rfl, rfl, rfl, rfl, rfl, rfl, rfl, ⟨ms, rfl⟩, id⟩

theorem Touched.writeCpuReg (s : State) (r : CpuReg) (v : Word) : Touched s (s.writeCpuReg r v) := by
  cases r <;> exact ⟨rfl, rfl, rfl, rfl, rfl, rfl, rfl, rfl, ⟨[], by simp [State.writeCpuReg]⟩, id⟩

theorem Touched.handlerEvent (s : State) (e : DeviceEvent) : Touched s (s.handlerEvent e) := by
  cases e with
  | writeReg r v => exact Touched.writeCpuReg s r v
  | writeMem addr v => exact Touched.write s addr v
  | interrupt m => exact Touched.request s [m]

/-- What every event of a device keeps, a run of its code keeps, and the device stays of its kind. -/
theorem runForeign_keeps {P : State → State → Prop} (hr : ∀ s, P s s) (ht : ∀ s t u, P s t → P t u → P s u)
    {perform : State → DeviceEvent → State} (he : ∀ s e, P s (perform s e)) (entry : DeviceEntry) (n : Nat)
    (d : ForeignState) (s : State) :
    P s (runForeign perform entry n d s).st ∧
      ∃ ls, (runForeign perform entry n d s).dev = .foreign { d with locals := ls } := by
  induction n generalizing d s with
  | zero => exact ⟨hr s, d.locals, rfl⟩
  | succ n ih =>
    rw [runForeign]
    split
    · rename_i e locals _
      obtain ⟨h, ls, hd⟩ := ih { d with locals := locals } (perform s e)
      exact ⟨ht _ _ _ (he s e) h, ls, hd⟩
    · exact ⟨hr s, _, rfl⟩

/-- The same inside an HWI handler (R307, R308). -/
theorem foreignRun_touched (entry : DeviceEntry) (d : ForeignState) (s : State) :
    let r := foreignRun State.handlerEvent entry d s
    Touched s r.st ∧ ∃ ls, r.dev = .foreign { d with locals := ls } :=
  runForeign_keeps Touched.refl (fun _ _ _ => Touched.trans) Touched.handlerEvent entry _ d s

theorem Touched.reportStatus (d : FloppyState) (st : FloppyStatus) (e : FloppyError) (b : Word) (s : State) :
    Touched s (reportStatus d st e b s).st :=
  (Touched.request s _).trans (Touched.setReg _ _ _)

/-- Every handler touches at most registers, memory and `pending` (R307). -/
theorem deviceHandle_touched (d : DeviceState) (s : State) : Touched s (deviceHandle d s).st := by
  cases d with
  | clock c =>
    simp only [deviceHandle, clockHandle]
    split <;> first | exact Touched.refl s | exact Touched.setReg s _ _
  | keyboard k =>
    simp only [deviceHandle, keyboardHandle]
    split <;> first | exact Touched.refl s | exact Touched.setReg s _ _
  | display v =>
    simp only [deviceHandle, displayHandle]
    split <;> first | exact Touched.writeBlock s _ _ | exact Touched.refl s
  | floppy f =>
    simp only [deviceHandle, floppyHandle, floppyPoll, floppyStartRead, floppyStartWrite, startTransfer]
    repeat' split
    all_goals first
      | exact Touched.refl s
      | exact Touched.reportStatus _ _ _ _ s
      | exact (Touched.setReg s _ _).trans (Touched.setReg _ _ _)
  | foreign f =>
    simp only [deviceHandle, foreignHandle]
    split
    · exact (foreignRun_touched _ f s).1
    · exact Touched.refl s

/-! ## Legal local states -/

theorem risingCodes_cons {x : Word} {xs : List Word} :
    risingCodes (x :: xs) = true ↔ (∀ y ∈ xs.head?, x.toNat < y.toNat) ∧ risingCodes xs = true := by
  cases xs <;> simp [risingCodes]

theorem head?_insertCode (k : Word) (xs : List Word) :
    ∀ y ∈ (insertCode k xs).head?, y = k ∨ y ∈ xs.head? := by
  cases xs with
  | nil => simp [insertCode]
  | cons x xs =>
    intro y hy
    simp only [insertCode] at hy
    split_ifs at hy <;> simp_all

theorem risingCodes_insertCode {xs : List Word} (h : risingCodes xs = true) (k : Word) :
    risingCodes (insertCode k xs) = true := by
  induction xs with
  | nil => rfl
  | cons x xs ih =>
    have hc := risingCodes_cons.mp h
    simp only [insertCode]
    split_ifs with h1 h2
    · exact risingCodes_cons.mpr ⟨by simpa using h1, h⟩
    · exact h
    · refine risingCodes_cons.mpr ⟨fun y hy => ?_, ih hc.2⟩
      rcases head?_insertCode k xs y hy with rfl | hy'
      · have : y.toNat ≠ x.toNat := fun e => h2 (BitVec.eq_of_toNat_eq e)
        omega
      · exact hc.1 y hy'

theorem risingCodes_lt {x : Word} {xs : List Word} (h : risingCodes (x :: xs) = true) : ∀ y ∈ xs, x.toNat < y.toNat := by
  induction xs generalizing x with
  | nil => simp
  | cons z zs ih =>
    have hc := risingCodes_cons.mp h
    have hz : x.toNat < z.toNat := hc.1 z rfl
    intro y hy
    rcases List.mem_cons.mp hy with rfl | hy'
    · exact hz
    · exact hz.trans (ih hc.2 y hy')

theorem risingCodes_removeCode {xs : List Word} (h : risingCodes xs = true) (k : Word) :
    risingCodes (removeCode k xs) = true := by
  induction xs with
  | nil => rfl
  | cons x xs ih =>
    have hc := risingCodes_cons.mp h
    have ih' := ih hc.2
    simp only [removeCode, List.filter_cons] at ih' ⊢
    split_ifs with hx
    · refine risingCodes_cons.mpr ⟨fun y hy => ?_, ih'⟩
      exact risingCodes_lt h y (List.mem_of_mem_filter (List.mem_of_mem_head? hy))
    · exact ih'

/-- A key that was pressed is in the set of keys that are down (R352). -/
theorem mem_insertCode (k : Word) (xs : List Word) : k ∈ insertCode k xs := by
  induction xs with
  | nil => simp [insertCode]
  | cons x xs ih =>
    simp only [insertCode]
    split_ifs with h1 h2
    · simp
    · simp [h2]
    · simp [ih]

theorem clockWf_update {p : Parameters} (hpw : p.wf = true) {d : ClockState} (h : clockWf d = true) {dt : Rat}
    (hdt : 0 ≤ dt) : clockWf (clockUpdate p d dt).1 = true := by
  unfold clockUpdate
  cases he : d.enabled
  · simpa using h
  · simp only [clockWf, he, Bool.and_eq_true, beq_iff_eq, decide_eq_true_eq, Bool.not_true] at h ⊢
    have hp : d.period ≠ 0#16 := by simpa using h.1.symm
    have hw := wholePeriods_spec (acc := d.acc + dt) (by linarith [h.2]) (clockPeriod_pos hpw hp)
    exact ⟨by simpa using h.1, hw.1⟩

theorem displayWf_update {p : Parameters} (hpw : p.wf = true) {d : DisplayState} (h : displayWf p d = true) {dt : Rat}
    (hdt : 0 ≤ dt) : displayWf p (displayUpdate p d dt) = true := by
  simp only [displayWf, displayUpdate, Bool.and_eq_true, decide_eq_true_eq] at h ⊢
  have hacc : 0 ≤ d.blinkAcc + dt := add_nonneg h.1 hdt
  have hp : 0 < p.blinkPeriod := (Parameters.wf_iff.mp hpw).2.2.1
  have hw := wholePeriods_spec hacc hp
  exact ⟨decide_eq_true hw.1, decide_eq_true hw.2⟩

theorem floppyDelay_nonneg {p : Parameters} (hp : p.wf = true) (d : FloppyState) (t : Nat) : 0 ≤ floppyDelay p d t := by
  obtain ⟨-, -, -, -, -, -, h1, h2⟩ := Parameters.wf_iff.mp hp
  unfold floppyDelay
  positivity

end Sys2Proof.Machine
end

