-- ==== Sys2Proof/Laws/Encoding.lean ====
section
/-! SUPPORT. Operand codes and the fields of the first word: the encoder's codes against the decoder's, one operand at a time
(30_encoding.md R101 to R107). -/

namespace Sys2Proof

/-- An operand has at most one next word (R103). -/
theorem Operand.length_nextWords_le (o : Operand) : o.nextWords.length ≤ 1 := by
  cases o <;> simp [Operand.nextWords]

theorem SrcOperand.length_nextWords_le (a : SrcOperand) : a.nextWords.length ≤ 1 := by
  cases a with
  | common o => exact o.length_nextWords_le
  | pop => simp [SrcOperand.nextWords]
  | short v => simp [SrcOperand.nextWords]

theorem DstOperand.length_nextWords_le (b : DstOperand) : b.nextWords.length ≤ 1 := by
  cases b with
  | common o => exact o.length_nextWords_le
  | push => simp [DstOperand.nextWords]

@[simp] theorem Reg.ofIndex_index (r : Reg) : Reg.ofIndex r.index = r := by cases r <;> rfl

theorem Reg.index_lt (r : Reg) : r.index < 8 := by cases r <;> decide

/-- The code of a shared form is one of 0x00-0x17 and 0x19-0x1F (R106). -/
theorem Operand.code_lt (o : Operand) : o.code < 32 ∧ o.code ≠ 0x18 := by
  cases o with
  | reg r => cases r <;> decide
  | ind r => cases r <;> decide
  | idx r n => cases r <;> simp [Operand.code, Reg.index]
  | _ => simp [Operand.code]

theorem SrcOperand.code_lt (a : SrcOperand) : a.code < 64 := by
  cases a with
  | common o => exact o.code_lt.1.trans (by decide)
  | pop => decide
  | short v => simp [SrcOperand.code]; omega

theorem DstOperand.code_lt (b : DstOperand) : b.code < 32 := by
  cases b with
  | common o => exact o.code_lt.1
  | push => decide

/-- The decoder reads a next word exactly for the codes whose forms have one (R103, R106). -/
theorem Operand.codeReadsNextWord_code (o : Operand) : codeReadsNextWord o.code = !o.nextWords.isEmpty := by
  cases o with
  | reg r => cases r <;> rfl
  | ind r => cases r <;> rfl
  | idx r n => cases r <;> rfl
  | _ => rfl

/-- The fields of a first word fit their widths (R101). -/
theorem field_lt (w : Word) : fieldA w < 64 ∧ fieldB w < 32 ∧ fieldO w < 32 := by
  simp [fieldA, fieldB, fieldO, bits]
  omega

/-- A first word is nothing but its three fields (R101). -/
theorem field_join (w : Word) : BitVec.ofNat 16 (fieldA w * 1024 + fieldB w * 32 + fieldO w) = w := by
  apply BitVec.eq_of_toNat_eq
  have := w.isLt
  simp [fieldA, fieldB, fieldO, bits]
  omega

/-- The three fields of a first word that is put together from them (R101). -/
theorem fields_of_join {a b o : Nat} (ha : a < 64) (hb : b < 32) (ho : o < 32) :
    fieldA (BitVec.ofNat 16 (a * 1024 + b * 32 + o)) = a ∧ fieldB (BitVec.ofNat 16 (a * 1024 + b * 32 + o)) = b ∧
      fieldO (BitVec.ofNat 16 (a * 1024 + b * 32 + o)) = o := by
  simp [fieldA, fieldB, fieldO, bits]
  omega

end Sys2Proof
end

