-- ==== Sys2Proof/Laws/Flags.lean ====
section
/-! SUPPORT. The narrowing of exact results to a word (00_scope.md R10 to R12): it respects sums, differences and products, and undoes
both readings of a word. -/

namespace Sys2Proof.Machine

theorem trunc16_natCast (n : Nat) : trunc16 (n : Int) = BitVec.ofNat 16 n := by
  simp [trunc16]

/-- `sint` is the two's complement reading of a word (R11). -/
theorem sint_eq_toInt (w : Word) : sint w = w.toInt := by
  have := w.isLt
  simp only [sint, BitVec.toInt]
  split_ifs <;> omega

@[simp] theorem trunc16_uint (w : Word) : trunc16 (uint w) = w := by simp [trunc16, uint]

@[simp] theorem trunc16_sint (w : Word) : trunc16 (sint w) = w := by simp [trunc16, sint_eq_toInt]

theorem trunc16_add (m n : Int) : trunc16 (m + n) = trunc16 m + trunc16 n := BitVec.ofInt_add _ _

theorem trunc16_sub (m n : Int) : trunc16 (m - n) = trunc16 m - trunc16 n := by
  rw [sub_eq_add_neg, trunc16_add, BitVec.sub_eq_add_neg]
  congr 1
  exact BitVec.ofInt_neg

theorem trunc16_mul (m n : Int) : trunc16 (m * n) = trunc16 m * trunc16 n := BitVec.ofInt_mul _ _

theorem uint_pos {w : Word} (h : w ≠ 0#16) : 0 < uint w := by
  have : w.toNat ≠ 0 := fun e => h (BitVec.eq_of_toNat_eq (by simpa using e))
  simp only [uint]
  omega

end Sys2Proof.Machine
end

