-- ==== Sys2Proof/Laws/Floppy.lean ====
section
/-! SUPPORT. The floppy controller keeps its local state legal (49_dev_floppy.md R406), and every handler keeps the local state of its
device legal. -/

namespace Sys2Proof.Machine

variable {p : Parameters}

/-! ## Media -/

theorem sectorsWf_cons {lo k : Nat} {blk : List Word} {rest : List (Nat × List Word)} :
    sectorsWf p lo ((k, blk) :: rest) = true ↔
      lo ≤ k ∧ k < p.floppySectors ∧ blk.length = p.floppySectorWords ∧ sectorsWf p (k + 1) rest = true := by
  simp [sectorsWf, and_assoc]

theorem sectorsWf_mono {lo lo' : Nat} {data : List (Nat × List Word)} (h : sectorsWf p lo data = true) (hle : lo' ≤ lo) :
    sectorsWf p lo' data = true := by
  cases data with
  | nil => rfl
  | cons c rest =>
    have hc := sectorsWf_cons.mp h
    exact sectorsWf_cons.mpr ⟨hle.trans hc.1, hc.2⟩

/-- Writing a sector keeps the form of the map (R405). -/
theorem sectorsWf_setSector {lo k : Nat} {blk : List Word} {data : List (Nat × List Word)} (h : sectorsWf p lo data = true)
    (hlo : lo ≤ k) (hk : k < p.floppySectors) (hb : blk.length = p.floppySectorWords) :
    sectorsWf p lo (setSector k blk data) = true := by
  induction data generalizing lo with
  | nil => exact sectorsWf_cons.mpr ⟨hlo, hk, hb, rfl⟩
  | cons c rest ih =>
    obtain ⟨j, b⟩ := c
    have hc := sectorsWf_cons.mp h
    simp only [setSector]
    split_ifs with h1 h2
    · exact sectorsWf_cons.mpr ⟨hlo, hk, hb, sectorsWf_cons.mpr ⟨by omega, hc.2⟩⟩
    · exact sectorsWf_cons.mpr ⟨hlo, hk, hb, h2 ▸ hc.2.2.2⟩
    · exact sectorsWf_cons.mpr ⟨hc.1, hc.2.1, hc.2.2.1, ih hc.2.2.2 (by omega)⟩

@[simp] theorem Memory.length_readBlock (m : Memory) (base : Word) (n : Nat) : (m.readBlock base n).length = n := by
  induction n generalizing base with
  | zero => rfl
  | succ n ih => simp [Memory.readBlock, ih]

/-- Every sector that is read has one sector's words (R405). -/
theorem length_sectorRead {m : Medium} (h : mediumWf p m = true) (k : Nat) :
    (sectorRead p m k).length = p.floppySectorWords := by
  have key : ∀ (data : List (Nat × List Word)) (lo : Nat), sectorsWf p lo data = true → ∀ blk, data.lookup k = some blk →
      blk.length = p.floppySectorWords := by
    intro data
    induction data with
    | nil => intro lo _ blk hl; cases hl
    | cons c rest ih =>
      obtain ⟨j, b⟩ := c
      intro lo hw blk hl
      have hc := sectorsWf_cons.mp hw
      rw [List.lookup_cons] at hl
      split at hl
      · cases hl; exact hc.2.2.1
      · exact ih _ hc.2.2.2 blk hl
  unfold sectorRead
  cases hl : m.data.lookup k with
  | some blk => exact key m.data 0 h blk hl
  | none => simp

/-! ## The controller -/

/-- A legal transfer (R406, R409). -/
theorem transferWf_iff {op : Transfer} :
    transferWf p op = true ↔ op.sector < p.floppySectors ∧ op.track = trackOf p op.sector ∧ 0 ≤ op.remaining := by
  rw [transferWf, Bool.and_eq_true, Bool.and_eq_true, decide_eq_true_iff, decide_eq_true_iff, beq_iff_eq, and_assoc]

/-- The legal states without a transfer (R406). -/
theorem floppyWf_idle {d : FloppyState} (ho : d.op = none) :
    floppyWf p d = true ↔
      d.head < p.floppyTracks ∧ d.medium.all (mediumWf p) = true ∧ d.error ≠ .broken ∧
        d.status = idleStatus d.medium := by
  simp [floppyWf, ho, and_assoc]

/-- The legal states with a transfer (R406, R409, R410). -/
theorem floppyWf_busy {d : FloppyState} {op : Transfer} (ho : d.op = some op) :
    floppyWf p d = true ↔
      d.head < p.floppyTracks ∧ d.medium.all (mediumWf p) = true ∧ d.error ≠ .broken ∧ d.status = .busy ∧
        transferWf p op = true ∧ ∃ m, d.medium = some m ∧ ¬ (op.kind = .write ∧ m.wp = true) := by
  simp only [floppyWf, ho]
  cases d.medium <;> simp [and_assoc, imp_iff_not_or]

theorem idleStatus_ne_busy (m : Option Medium) : idleStatus m ≠ .busy := by
  cases m with
  | none => decide
  | some m => simp only [idleStatus]; split <;> decide

/-- A controller is busy exactly when a transfer is pending (R406). -/
theorem floppyWf_status {d : FloppyState} (h : floppyWf p d = true) : d.status = .busy ↔ d.op.isSome = true := by
  cases ho : d.op with
  | none =>
    have := (floppyWf_idle ho).mp h
    simp [this.2.2.2, idleStatus_ne_busy]
  | some op =>
    have := (floppyWf_busy ho).mp h
    simp [this.2.2.2.1]

theorem floppyWf_error {d : FloppyState} (h : floppyWf p d = true) {e : FloppyError} (he : e ≠ .broken) :
    floppyWf p { d with error := e } = true := by
  obtain ho | ⟨op, ho⟩ := Option.eq_none_or_eq_some d.op
  · have hi := (floppyWf_idle ho).mp h
    exact (floppyWf_idle (d := { d with error := e }) ho).mpr ⟨hi.1, hi.2.1, he, hi.2.2.2⟩
  · have hb := (floppyWf_busy ho).mp h
    exact (floppyWf_busy (d := { d with error := e }) ho).mpr ⟨hb.1, hb.2.1, he, hb.2.2.2⟩

theorem floppyWf_error_ne {d : FloppyState} (h : floppyWf p d = true) : d.error ≠ .broken := by
  cases ho : d.op with
  | none => exact ((floppyWf_idle ho).mp h).2.2.1
  | some op => exact ((floppyWf_busy ho).mp h).2.2.1

theorem trackOf_lt {k : Nat} (h : k < p.floppySectors) : trackOf p k < p.floppyTracks := by
  exact Nat.div_lt_of_lt_mul (by rwa [Parameters.floppySectors, Nat.mul_comm] at h)

/-- Starting a transfer keeps the controller legal (R409, R410). -/
theorem floppyWf_start {d : FloppyState} {s : State} (hp : s.params.wf = true) (h : floppyWf s.params d = true)
    {kind : TransferKind}
    (h1 : d.status ≠ .busy) (h2 : d.status ≠ .noMedia) (h3 : kind = .write → d.status ≠ .readyWp)
    (h4 : ¬ s.params.floppySectors ≤ s.gen.x.toNat) : deviceWf s.params (startTransfer kind d s).dev = true := by
  have ho : d.op = none := by
    cases ho : d.op with
    | none => rfl
    | some op => exact absurd ((floppyWf_status h).mpr (by simp [ho])) h1
  have hi := (floppyWf_idle ho).mp h
  obtain ⟨m, hm⟩ : ∃ m, d.medium = some m := by
    cases hm : d.medium with
    | none => rw [hm] at hi; exact absurd hi.2.2.2 h2
    | some m => exact ⟨m, rfl⟩
  refine (floppyWf_busy (op := _) rfl).mpr ⟨hi.1, hi.2.1, hi.2.2.1, rfl, ?_, m, hm, ?_⟩
  · exact transferWf_iff.mpr ⟨Nat.lt_of_not_le h4, rfl, floppyDelay_nonneg hp _ _⟩
  · rintro ⟨hk, hwp⟩
    refine h3 hk ?_
    rw [hi.2.2.2, hm]
    simp only [idleStatus, hwp, if_true]

/-- CancelPending keeps the controller legal, and no transfer is left (R414). -/
theorem floppyWf_cancel {d : FloppyState} (h : floppyWf p d = true) : floppyWf p (floppyCancel d) = true := by
  unfold floppyCancel
  cases ho : d.op with
  | none => simpa [ho] using h
  | some op =>
    have hb := (floppyWf_busy ho).mp h
    exact (floppyWf_idle (d := { d with op := none, status := idleStatus d.medium }) rfl).mpr
      ⟨hb.1, hb.2.1, hb.2.2.1, rfl⟩

@[simp] theorem floppyCancel_op (d : FloppyState) : (floppyCancel d).op = none := by
  unfold floppyCancel
  cases ho : d.op <;> simp [ho]

/-- Insert keeps the controller legal (R416). -/
theorem floppyWf_insert {d : FloppyState} (h : floppyWf p d = true) (hn : d.medium = none) {m : Medium}
    (hm : mediumWf p m = true) : floppyWf p (floppyInsert d m).1 = true := by
  have ho : d.op = none := by
    cases ho : d.op with
    | none => rfl
    | some op =>
      obtain ⟨-, -, -, -, -, m', hm', -⟩ := (floppyWf_busy ho).mp h
      rw [hn] at hm'; cases hm'
  have hi := (floppyWf_idle ho).mp h
  exact (floppyWf_idle (d := (floppyInsert d m).1) ho).mpr ⟨hi.1, by simp [floppyInsert, setStatus, hm], hi.2.2.1, rfl⟩

/-- Eject keeps the controller legal (R417). -/
theorem floppyWf_eject {d : FloppyState} (h : floppyWf p d = true) : floppyWf p (floppyEject d).1 = true := by
  obtain ho | ⟨op, ho⟩ := Option.eq_none_or_eq_some d.op
  · have hi := (floppyWf_idle ho).mp h
    rw [floppyEject, ho]
    exact (floppyWf_idle rfl).mpr ⟨hi.1, rfl, hi.2.2.1, rfl⟩
  · have hb := (floppyWf_busy ho).mp h
    rw [floppyEject, ho]
    exact (floppyWf_idle rfl).mpr ⟨hb.1, rfl, fun e => FloppyError.noConfusion e, rfl⟩

/-- An update keeps the controller legal (R415). -/
theorem floppyWf_update {d : FloppyState} (h : floppyWf p d = true) (dt : Rat) (m : Memory) :
    floppyWf p (floppyUpdate p d dt m).dev = true := by
  unfold floppyUpdate
  cases ho : d.op with
  | none => simpa [ho] using h
  | some op =>
    obtain ⟨h1, h2, h3, h4, h5, med, h6, h7⟩ := (floppyWf_busy ho).mp h
    rw [transferWf_iff] at h5
    simp only
    split_ifs with hr
    · refine (floppyWf_busy (op := { op with remaining := op.remaining - dt }) rfl).mpr ⟨h1, h2, h3, h4, ?_, med, h6, h7⟩
      exact transferWf_iff.mpr ⟨h5.1, h5.2.1, hr.le⟩
    · refine (floppyWf_idle rfl).mpr ⟨?_, ?_, h3, rfl⟩
      · simp only [setStatus, h5.2.1]
        exact trackOf_lt h5.1
      · rw [h6] at h2
        have hm : mediumWf p med = true := by simpa using h2
        rw [h6]
        cases hk : op.kind
        · simpa [setStatus, floppyCopy, hk] using hm
        · simp only [setStatus, floppyCopy, hk, Option.all_some]
          exact sectorsWf_setSector hm (Nat.zero_le _) h5.1 (by simp)

/-! ## Every handler keeps its device legal -/

/-- A handler keeps the local state of its device legal (R303 to R307). -/
theorem deviceWf_handle {d : DeviceState} {s : State} (hp : s.params.wf = true) (h : deviceWf s.params d = true) :
    deviceWf s.params (deviceHandle d s).dev = true := by
  cases d with
  | clock c =>
    simp only [deviceHandle, clockHandle]
    split
    · simp only [deviceWf, clockWf, Bool.and_eq_true, beq_iff_eq]
      exact ⟨trivial, decide_eq_true (le_refl _)⟩
    · exact h
    · exact h
    · exact h
  | keyboard k =>
    simp only [deviceHandle, keyboardHandle]
    split <;> exact h
  | display v =>
    simp only [deviceHandle, displayHandle]
    split <;> exact h
  | foreign f =>
    simp only [deviceHandle, foreignHandle]
    split
    · obtain ⟨-, ls, hd⟩ := foreignRun_touched .handle f s
      rw [hd]
      rfl
    · rfl
  | floppy f =>
    have hf : floppyWf s.params f = true := h
    simp only [deviceHandle, floppyHandle]
    split
    · exact floppyWf_error hf (e := .noError) (by decide)
    · exact h
    · simp only [floppyStartRead]
      split_ifs with h1 h2 h3
      · exact floppyWf_error hf (e := .busy) (by decide)
      · exact floppyWf_error hf (e := .noMedia) (by decide)
      · exact floppyWf_error hf (e := .badSector) (by decide)
      · exact floppyWf_start hp hf h1 h2 (by simp) h3
    · simp only [floppyStartWrite]
      split_ifs with h1 h2 h3 h4
      · exact floppyWf_error hf (e := .busy) (by decide)
      · exact floppyWf_error hf (e := .noMedia) (by decide)
      · exact floppyWf_error hf (e := .writeProtected) (by decide)
      · exact floppyWf_error hf (e := .badSector) (by decide)
      · exact floppyWf_start hp hf h1 h2 (fun _ => h3) h4
    · exact h

end Sys2Proof.Machine
end

