-- ==== Sys2Proof/Laws/Step.lean ====
section
/-! SUPPORT. Everything an instruction can do to the parts of the state that the claims about all instructions are about, said
once for each template and then for `exec`. -/

namespace Sys2Proof.Machine

/-- `t` is a state an instruction, started in `s`, may end in: the power flag and the identity of every slot are as before,
flags are never cleared, cycles never go back, and memory, the devices' local states and the rule of on_fire stay
legal. -/
structure Keeps (s t : State) : Prop where
  powered : t.powered = s.powered
  cycles : s.cycles ≤ t.cycles
  wakeReq : s.wakeReq = true → t.wakeReq = true
  onFire : s.onFire = true → t.onFire = true
  fire : s.FireInv → t.FireInv
  memory : s.mem.wf = true → t.mem.wf = true
  identities : t.slots.map slotIdentity = s.slots.map slotIdentity
  instances : t.slots.map Slot.inst? = s.slots.map Slot.inst?
  params : t.params = s.params
  devices : s.params.wf = true → s.slots.all (slotWf s.params) = true → t.slots.all (slotWf s.params) = true

theorem Keeps.refl (s : State) : Keeps s s := ⟨rfl, le_refl _, id, id, id, id, rfl, rfl, rfl, fun _ => id⟩

theorem Keeps.trans {s t u : State} (h : Keeps s t) (h' : Keeps t u) : Keeps s u :=
  ⟨h'.powered.trans h.powered, h.cycles.trans h'.cycles, h'.wakeReq ∘ h.wakeReq, h'.onFire ∘ h.onFire, h'.fire ∘ h.fire,
    h'.memory ∘ h.memory, h'.identities.trans h.identities, h'.instances.trans h.instances,
    h'.params.trans h.params, fun hp hd => by
      have := h'.devices (by rwa [h.params])
      rw [h.params] at this
      exact this (h.devices hp hd)⟩

/-- A change of registers, memory and cycles only. -/
theorem Keeps.of_eq {s t : State} (h1 : t.powered = s.powered) (h2 : s.cycles ≤ t.cycles) (h3 : t.wakeReq = s.wakeReq)
    (h4 : t.onFire = s.onFire) (h5 : t.queue = s.queue) (h6 : s.mem.wf = true → t.mem.wf = true)
    (h7 : t.slots = s.slots) (h8 : t.params = s.params) : Keeps s t :=
  ⟨h1, h2, by rw [h3]; exact id, by rw [h4]; exact id, by unfold State.FireInv; rw [h4, h5]; exact id, h6, by rw [h7],
    by rw [h7], h8, fun _ => by rw [h7]; exact id⟩

theorem Keeps.charge (s : State) (n : Nat) : Keeps s (s.charge n) :=
  Keeps.of_eq rfl (Nat.le_add_right _ _) rfl rfl rfl id rfl rfl

theorem Keeps.setEx (s : State) (v : Word) : Keeps s (s.setEx v) := Keeps.of_eq rfl (le_refl _) rfl rfl rfl id rfl rfl

theorem Keeps.setPc (s : State) (v : Word) : Keeps s (s.setPc v) := Keeps.of_eq rfl (le_refl _) rfl rfl rfl id rfl rfl

theorem Keeps.setIa (s : State) (v : Word) : Keeps s (s.setIa v) := Keeps.of_eq rfl (le_refl _) rfl rfl rfl id rfl rfl

theorem Keeps.setQueueing (s : State) (q : Bool) : Keeps s (s.setQueueing q) := Keeps.of_eq rfl (le_refl _) rfl rfl rfl id rfl rfl

theorem Keeps.request (s : State) (ms : List Word) : Keeps s (s.request ms) := Keeps.of_eq rfl (le_refl _) rfl rfl rfl id rfl rfl

theorem Keeps.advancePc (s : State) (n : Nat) : Keeps s (s.advancePc n) := Keeps.of_eq rfl (le_refl _) rfl rfl rfl id rfl rfl

theorem Keeps.setReg (s : State) (r : Reg) (v : Word) : Keeps s (s.setReg r v) :=
  Keeps.of_eq rfl (le_refl _) rfl rfl rfl id rfl rfl

theorem Keeps.push (s : State) (v : Word) : Keeps s (s.push v) :=
  Keeps.of_eq rfl (le_refl _) rfl rfl rfl (fun h => Memory.wf_write h _ _) rfl rfl

theorem Keeps.returnFromInterrupt (s : State) : Keeps s s.returnFromInterrupt :=
  Keeps.of_eq rfl (le_refl _) rfl rfl rfl id rfl rfl

theorem Keeps.srcAfter (s : State) (a : SrcOperand) : Keeps s (srcAfter s a) :=
  Keeps.of_eq (by simp) (by simp) (by simp) (by simp) (by simp) (by simp) (by simp) (by simp)

theorem Keeps.dstAfter (s : State) (b : DstOperand) : Keeps s (dstAfter s b) :=
  Keeps.of_eq (by simp) (by simp) (by simp) (by simp) (by simp) (by simp) (by simp) (by simp)

theorem Keeps.writeLoc (s : State) (l : Loc) (v : Word) : Keeps s (s.writeLoc l v) :=
  Keeps.of_eq (by simp) (by simp) (by simp) (by simp) (by simp) (fun h => State.wf_writeLoc h l v) (by simp) (by simp)

theorem Keeps.deliver (s : State) (m : Word) : Keeps s (s.deliver m) :=
  Keeps.of_eq rfl (le_refl _) rfl rfl rfl (fun h => State.wf_deliver h m) rfl rfl

theorem Keeps.enqueue (s : State) (m : Word) : Keeps s (s.enqueue m) := by
  refine ⟨rfl, le_refl _, id, fun h => by simp [State.enqueue, h], fun _ h => ?_, id, rfl, rfl, rfl, fun _ => id⟩
  have h : Params.queueFireBound < (s.queue ++ [m]).length := h
  simp only [State.enqueue, h, decide_true, Bool.or_true]

theorem Keeps.setWakeReq (s : State) : Keeps s { s with wakeReq := true } :=
  ⟨rfl, le_refl _, fun _ => rfl, id, id, id, rfl, rfl, rfl, fun _ => id⟩

theorem Keeps.trigger (s : State) (m : Word) : Keeps s (s.trigger m) := by
  rcases s.trigger_cases m with ⟨h, -⟩ | ⟨h, -⟩ | ⟨h, -⟩ <;> rw [h]
  · exact Keeps.refl s
  · exact (Keeps.setWakeReq s).trans (Keeps.enqueue _ m)
  · exact (Keeps.setWakeReq s).trans (Keeps.deliver _ m)

theorem Keeps.triggerAll (s : State) (ms : List Word) : Keeps s (s.triggerAll ms) := by
  induction ms generalizing s with
  | nil => exact Keeps.refl s
  | cons m ms ih => exact (Keeps.trigger s m).trans (ih _)

theorem Keeps.drainPending (s : State) : Keeps s s.drainPending :=
  (Keeps.triggerAll s s.pending).trans (Keeps.of_eq rfl (le_refl _) rfl rfl rfl id rfl rfl)

theorem Keeps.dispatch (s : State) : Keeps s s.dispatch := by
  have key : ∀ m q, s.queue = m :: q → Keeps s { s with queue := q } := fun m q hq =>
    ⟨rfl, le_refl _, id, id, fun h hl => h (by rw [hq]; exact Nat.lt_succ_of_lt hl), id, rfl, rfl, rfl, fun _ => id⟩
  rcases s.dispatch_cases with ⟨h, -⟩ | ⟨m, q, hq, -, -, h⟩ | ⟨m, q, hq, -, -, h⟩ <;> rw [h]
  · exact Keeps.refl s
  · exact key m q hq
  · exact (key m q hq).trans (Keeps.deliver _ m)

theorem Touched.keeps {s t : State} (h : Touched s t) : Keeps s t :=
  Keeps.of_eq h.powered h.cycles.ge h.wakeReq h.onFire h.queue h.memory h.slots h.params

/-- Replacing the local state of a slot's device by a legal one. -/
theorem Keeps.setDeviceState {s : State} {h : Nat} {d : Device} (hs : s.slots[h]? = some (.connected d)) (ds : DeviceState)
    (hd : s.params.wf = true → deviceWf s.params d.state = true → deviceWf s.params ds = true) :
    Keeps s (s.setDeviceState h d ds) := by
  have hm : ∀ {β : Type} (f : Slot → β), f (.connected { d with state := ds }) = f (.connected d) →
      (s.slots.set h (.connected { d with state := ds })).map f = s.slots.map f := by
    intro β f hf
    rw [List.map_set, hf]
    refine List.ext_getElem? fun i => ?_
    rw [List.getElem?_set]
    split_ifs with h1 h2
    · rw [← h1, List.getElem?_map, hs]; rfl
    · rw [← h1, List.getElem?_eq_none (by omega)]
    · rfl
  refine ⟨rfl, le_refl _, id, id, id, id, hm _ rfl, hm _ rfl, rfl, fun hp hall => ?_⟩
  rw [List.all_eq_true] at hall ⊢
  intro x hx
  rcases List.mem_or_eq_of_mem_set hx with hx | rfl
  · exact hall x hx
  · exact hd hp (hall _ (List.mem_of_getElem? hs))

theorem Keeps.hardwareInterrupt (s : State) (h : Word) : Keeps s (s.hardwareInterrupt h).1 := by
  unfold State.hardwareInterrupt
  split
  · rename_i d hd
    have ht := deviceHandle_touched d.state s
    refine ht.keeps.trans (Keeps.setDeviceState (by rw [ht.slots]; exact hd) _ ?_)
    rw [ht.params]
    exact fun hp => deviceWf_handle hp
  · exact Keeps.refl s
  · exact Keeps.refl s

theorem Keeps.hardwareQuery (s : State) (h : Word) : Keeps s (s.hardwareQuery h) := by
  unfold State.hardwareQuery
  split
  · exact Keeps.of_eq rfl (le_refl _) rfl rfl rfl id rfl rfl
  · exact Keeps.refl s

/-! ## Templates -/

/-- What an instruction leaves: a kept state, at least one cycle later. -/
structure Ran (s t : State) : Prop extends Keeps s t where
  cost : s.cycles + 1 ≤ t.cycles

theorem Keeps.ran {s t : State} (h : Keeps s t) {n : Nat} (hn : 1 ≤ n) : Ran s (t.charge n) :=
  ⟨h.trans (Keeps.charge t n), by
    have := h.cycles
    rw [State.charge_cycles]
    omega⟩

theorem Ran.drainPending {s t : State} (h : Ran s t) : Ran s t.drainPending :=
  ⟨h.toKeeps.trans (Keeps.drainPending t), by rw [State.drainPending_cycles]; exact h.cost⟩

theorem Keeps.resolve (b : DstOperand) (a : SrcOperand) (s : State) : Keeps s (resolve b a s).st :=
  (Keeps.srcAfter s a).trans (Keeps.dstAfter _ b)

theorem Keeps.resolveA (a : SrcOperand) (s : State) : Keeps s (resolveA a s).st := Keeps.srcAfter s a

theorem storeResult_ran {base : Nat} (hb : 1 ≤ base) (f : Word → Word → Word) (b : DstOperand) (a : SrcOperand) (s : State) :
    ∃ t, storeResult base f b a s = .next t ∧ Ran s t :=
  ⟨_, rfl, ((Keeps.resolve b a s).trans (Keeps.writeLoc _ _ _)).ran (by omega)⟩

theorem storeResultEx_ran {base : Nat} (hb : 1 ≤ base) (f : Word → Word → Word → Word × Word) (b : DstOperand)
    (a : SrcOperand) (s : State) : ∃ t, storeResultEx base f b a s = .next t ∧ Ran s t :=
  ⟨_, rfl, (((Keeps.resolve b a s).trans (Keeps.setEx _ _)).trans
    (Keeps.writeLoc _ _ _)).ran (by omega)⟩

theorem storeAndStep_ran (d : Word) (b : DstOperand) (a : SrcOperand) (s : State) :
    ∃ t, storeAndStep d b a s = .next t ∧ Ran s t :=
  ⟨_, rfl, ((((Keeps.resolve b a s).trans (Keeps.writeLoc _ _ _)).trans
    (Keeps.setReg _ _ _)).trans (Keeps.setReg _ _ _)).ran (by omega)⟩

theorem reservedNoOp_ran (n : Nat) (s : State) : ∃ t, reservedNoOp n s = .next t ∧ Ran s t :=
  ⟨_, rfl, (Keeps.advancePc s n).ran (le_refl _)⟩

/-- A conditional runs on, or is stuck in an endless skip (R154, R250). -/
theorem conditional_ran (test : Word → Word → Bool) (b : DstOperand) (a : SrcOperand) (s : State) :
    (∃ t, conditional test b a s = .next t ∧ Ran s t) ∨ conditional test b a s = .fault .endlessSkip := by
  simp only [conditional]
  split_ifs with h
  · exact .inl ⟨_, rfl, (Keeps.resolve b a s).ran (by omega)⟩
  · split
    · exact .inl ⟨_, rfl, ((Keeps.resolve b a s).trans (Keeps.setPc _ _)).ran (by omega)⟩
    · exact .inr rfl

/-- The two cases of DVI (R196, D10): the one that DVI_OVERFLOW = fault refuses, and every other. -/
theorem execDvi_cases (b : DstOperand) (a : SrcOperand) (s : State) :
    let o := resolve b a s
    let refused := s.params.dviOverflow = .fault ∧ o.bv = 0x8000#16 ∧ o.av = 0xFFFF#16
    (refused → execDvi b a s = .refused .dviOverflow) ∧
      (¬ refused → execDvi b a s = storeResultEx 3 (fun bv av _ => dviFlags bv av) b a s) := by
  cases h : s.params.dviOverflow <;> simp_all [execDvi, dviWith, dviOverflows]

theorem execDvi_ran (b : DstOperand) (a : SrcOperand) (s : State) :
    (∃ t, execDvi b a s = .next t ∧ Ran s t) ∨
      (execDvi b a s = .refused .dviOverflow ∧ s.params.dviOverflow = .fault) := by
  obtain ⟨h1, h2⟩ := execDvi_cases b a s
  by_cases h : s.params.dviOverflow = .fault ∧ (resolve b a s).bv = 0x8000#16 ∧ (resolve b a s).av = 0xFFFF#16
  · exact .inr ⟨h1 h, h.1⟩
  · exact .inl (h2 h ▸ storeResultEx_ran (base := 3) (by omega) (fun bv av _ => dviFlags bv av) b a s)

theorem execJsr_ran (a : SrcOperand) (s : State) : ∃ t, execJsr a s = .next t ∧ Ran s t :=
  ⟨_, rfl, (((Keeps.resolveA a s).trans (Keeps.push _ _)).trans (Keeps.setPc _ _)).ran (by omega)⟩

theorem execInt_ran (a : SrcOperand) (s : State) : ∃ t, execInt a s = .next t ∧ Ran s t :=
  ⟨_, rfl, (((Keeps.resolveA a s).trans (Keeps.request _ _)).ran (by omega)).drainPending⟩

theorem execIag_ran (a : SrcOperand) (s : State) : ∃ t, execIag a s = .next t ∧ Ran s t :=
  ⟨_, rfl, ((Keeps.resolveA a s).trans (Keeps.writeLoc _ _ _)).ran (by omega)⟩

theorem execIas_ran (a : SrcOperand) (s : State) : ∃ t, execIas a s = .next t ∧ Ran s t :=
  ⟨_, rfl, ((Keeps.resolveA a s).trans (Keeps.setIa _ _)).ran (by omega)⟩

theorem execRfi_ran (a : SrcOperand) (s : State) : ∃ t, execRfi a s = .next t ∧ Ran s t :=
  ⟨_, rfl, ((Keeps.resolveA a s).trans (Keeps.returnFromInterrupt _)).ran (by omega)⟩

theorem execIaq_ran (a : SrcOperand) (s : State) : ∃ t, execIaq a s = .next t ∧ Ran s t :=
  ⟨_, rfl, ((Keeps.resolveA a s).trans (Keeps.setQueueing _ _)).ran (by omega)⟩

theorem execHwn_ran (a : SrcOperand) (s : State) : ∃ t, execHwn a s = .next t ∧ Ran s t :=
  ⟨_, rfl, ((Keeps.resolveA a s).trans (Keeps.writeLoc _ _ _)).ran (by omega)⟩

theorem execHwq_ran (a : SrcOperand) (s : State) : ∃ t, execHwq a s = .next t ∧ Ran s t :=
  ⟨_, rfl, ((Keeps.resolveA a s).trans (Keeps.hardwareQuery _ _)).ran (by omega)⟩

theorem execHwi_ran (a : SrcOperand) (s : State) : ∃ t, execHwi a s = .next t ∧ Ran s t :=
  ⟨_, rfl, (((Keeps.resolveA a s).trans (Keeps.hardwareInterrupt _ _)).ran (by omega)).drainPending⟩

/-- Everything an instruction can do: it runs to a next state, it is a conditional stuck in an endless skip, or it is a DVI that
DVI_OVERFLOW refuses. -/
theorem exec_ran (i : Instr) (s : State) :
    (∃ t, exec i s = .next t ∧ Ran s t) ∨ (exec i s = .fault .endlessSkip ∧ conditionalOpcode i.opcode = true) ∨
      (exec i s = .refused .dviOverflow ∧ s.params.dviOverflow = .fault ∧ i.opcode = .basic 0x07) := by
  cases i
  case dvi b a => exact (execDvi_ran b a s).imp id (fun h => .inr ⟨h.1, h.2, rfl⟩)
  case ifb b a => exact (conditional_ran testIfb b a s).imp id (fun h => .inl ⟨h, rfl⟩)
  case ifc b a => exact (conditional_ran testIfc b a s).imp id (fun h => .inl ⟨h, rfl⟩)
  case ife b a => exact (conditional_ran testIfe b a s).imp id (fun h => .inl ⟨h, rfl⟩)
  case ifn b a => exact (conditional_ran testIfn b a s).imp id (fun h => .inl ⟨h, rfl⟩)
  case ifg b a => exact (conditional_ran testIfg b a s).imp id (fun h => .inl ⟨h, rfl⟩)
  case ifa b a => exact (conditional_ran testIfa b a s).imp id (fun h => .inl ⟨h, rfl⟩)
  case ifl b a => exact (conditional_ran testIfl b a s).imp id (fun h => .inl ⟨h, rfl⟩)
  case ifu b a => exact (conditional_ran testIfu b a s).imp id (fun h => .inl ⟨h, rfl⟩)
  all_goals left
  case sti b a => exact storeAndStep_ran _ b a s
  case std b a => exact storeAndStep_ran _ b a s
  case jsr a => exact execJsr_ran a s
  case int a => exact execInt_ran a s
  case iag a => exact execIag_ran a s
  case ias a => exact execIas_ran a s
  case rfi a => exact execRfi_ran a s
  case iaq a => exact execIaq_ran a s
  case hwn a => exact execHwn_ran a s
  case hwq a => exact execHwq_ran a s
  case hwi a => exact execHwi_ran a s
  case set b a => exact storeResult_ran (base := 1) (by decide) (fun _ av => av) b a s
  case mod b a => exact storeResult_ran (base := 3) (by decide) (modResult) b a s
  case mdi b a => exact storeResult_ran (base := 3) (by decide) (mdiResult) b a s
  case and b a => exact storeResult_ran (base := 1) (by decide) (fun bv av => bv &&& av) b a s
  case bor b a => exact storeResult_ran (base := 1) (by decide) (fun bv av => bv ||| av) b a s
  case xor b a => exact storeResult_ran (base := 1) (by decide) (fun bv av => bv ^^^ av) b a s
  case add b a => exact storeResultEx_ran (base := 2) (by decide) (fun bv av _ => addFlags bv av) b a s
  case sub b a => exact storeResultEx_ran (base := 2) (by decide) (fun bv av _ => subFlags bv av) b a s
  case mul b a => exact storeResultEx_ran (base := 2) (by decide) (fun bv av _ => mulFlags bv av) b a s
  case mli b a => exact storeResultEx_ran (base := 2) (by decide) (fun bv av _ => mliFlags bv av) b a s
  case div b a => exact storeResultEx_ran (base := 3) (by decide) (fun bv av _ => divFlags bv av) b a s
  case shr b a => exact storeResultEx_ran (base := 1) (by decide) (fun bv av _ => shrFlags bv av) b a s
  case asr b a => exact storeResultEx_ran (base := 1) (by decide) (fun bv av _ => asrFlags bv av) b a s
  case shl b a => exact storeResultEx_ran (base := 1) (by decide) (fun bv av _ => shlFlags bv av) b a s
  case adx b a => exact storeResultEx_ran (base := 3) (by decide) (adxFlags) b a s
  case sbx b a => exact storeResultEx_ran (base := 3) (by decide) (sbxFlags s.params.sbxExSigned) b a s
  all_goals exact reservedNoOp_ran _ s

/-- Everything a step can do. -/
theorem cpuStep_ran (s : State) :
    (∃ t, cpuStep s = .next t ∧ Ran s t ∧ t.pending = []) ∨
      (cpuStep s = .fault .endlessSkip ∧ conditionalOpcode s.dispatch.fetch.opcode = true) ∨
      (cpuStep s = .refused .dviOverflow ∧ s.params.dviOverflow = .fault ∧ s.dispatch.fetch.opcode = .basic 0x07) := by
  unfold cpuStep
  have hd : Keeps s (s.dispatch.advancePc 1) :=
    (Keeps.dispatch s).trans (Keeps.advancePc _ 1)
  rcases exec_ran s.dispatch.fetch (s.dispatch.advancePc 1) with
    ⟨t, ht, hr⟩ | ⟨hf, hc⟩ | ⟨hf, hp, ho⟩
  · refine .inl ⟨t.drainPending, by simp only [ht, finish], ?_, rfl⟩
    exact Ran.drainPending ⟨hd.trans hr.toKeeps, (Nat.add_le_add_right hd.cycles 1).trans hr.cost⟩
  · exact .inr (.inl ⟨by simp only [hf, finish], hc⟩)
  · exact .inr (.inr ⟨by simp only [hf, finish], by simpa using hp, ho⟩)

end Sys2Proof.Machine
end

