-- ==== Sys2Proof/Laws/Host.lean ====
section
/-! SUPPORT. What device code can do in a host action (46_hardware_bus.md R307, R309). -/

namespace Sys2Proof.Machine

/-- An event of a device in a host action keeps the state legal and leaves the slots and `pending` alone; an unpowered CPU it
leaves as it is (R511). -/
theorem State.hostEvent_keeps (s : State) (e : DeviceEvent) :
    Keeps s (s.hostEvent e) ∧ (s.hostEvent e).slots = s.slots ∧ (s.hostEvent e).pending = s.pending ∧
      (s.powered = false → s.hostEvent e = s) := by
  unfold State.hostEvent
  split_ifs with hp
  · simp only [hp, Bool.true_eq_false, false_implies, and_true]
    cases e with
    | writeReg r v =>
      have ht := Touched.writeCpuReg s r v
      exact ⟨ht.keeps, ht.slots, by cases r <;> rfl⟩
    | writeMem addr v => exact ⟨(Touched.write s addr v).keeps, rfl, rfl⟩
    | interrupt m => exact ⟨Keeps.trigger s m, s.trigger_slots m, s.trigger_pending m⟩
  · exact ⟨Keeps.refl s, rfl, rfl, fun _ => rfl⟩

/-- The same of a whole run of a device's code in a host action. -/
theorem foreignRun_host_keeps (entry : DeviceEntry) (d : ForeignState) (s : State) :
    let r := foreignRun State.hostEvent entry d s
    (Keeps s r.st ∧ r.st.slots = s.slots ∧ r.st.pending = s.pending ∧ (s.powered = false → r.st = s)) ∧
      ∃ ls, r.dev = .foreign { d with locals := ls } := by
  refine runForeign_keeps
    (P := fun s t => Keeps s t ∧ t.slots = s.slots ∧ t.pending = s.pending ∧ (s.powered = false → t = s))
    (fun s => ⟨Keeps.refl s, rfl, rfl, fun _ => rfl⟩) ?_ State.hostEvent_keeps entry _ d s
  rintro s t u ⟨k1, s1, p1, o1⟩ ⟨k2, s2, p2, o2⟩
  exact ⟨k1.trans k2, s2.trans s1, p2.trans p1, fun h => by rw [o2 (k1.powered.trans h), o1 h]⟩

/-- A reference device's action keeps the state legal, when the device's new local state is. -/
theorem State.deviceAction_keeps {s : State} {h : Nat} {d : Device} (hs : s.slots[h]? = some (.connected d))
    (ds : DeviceState)
    (hd : s.params.wf = true → deviceWf s.params d.state = true → deviceWf s.params ds = true) (requests : List Word) :
    Keeps s (s.deviceAction h d ds requests) ∧ (s.deviceAction h d ds requests).pending = s.pending :=
  ⟨(Keeps.setDeviceState hs ds hd).trans (Keeps.triggerAll _ _), by simp [State.deviceAction]⟩

end Sys2Proof.Machine
end

