-- ==== Sys2Proof/Laws/PerInstr.lean ====
section
/-! SUPPORT. For every instruction: its encoding has as many words as its length says, from one to three (30_encoding.md R100,
R103). -/

namespace Sys2Proof.Laws

/-- The number of words of an instruction's encoding is its length, 1, 2 or 3 (R100, R103). -/
def EncodedLength.Statement (i : Instr) : Prop := (encode i).length = i.length ∧ 1 ≤ i.length ∧ i.length ≤ 3

/-- The statement from the two operands' next words. -/
theorem encodedLength_of_nextWords (i : Instr) (h : i.dstNextWords.length ≤ 1) : EncodedLength.Statement i := by
  have := i.src.length_nextWords_le
  refine ⟨?_, ?_, ?_⟩ <;> simp only [encode, Instr.length, List.length_cons, List.length_append] <;> omega

theorem EncodedLength.set (b : DstOperand) (a : SrcOperand) : EncodedLength.Statement (.set b a) :=
  encodedLength_of_nextWords _ b.length_nextWords_le

theorem EncodedLength.add (b : DstOperand) (a : SrcOperand) : EncodedLength.Statement (.add b a) :=
  encodedLength_of_nextWords _ b.length_nextWords_le

theorem EncodedLength.sub (b : DstOperand) (a : SrcOperand) : EncodedLength.Statement (.sub b a) :=
  encodedLength_of_nextWords _ b.length_nextWords_le

theorem EncodedLength.mul (b : DstOperand) (a : SrcOperand) : EncodedLength.Statement (.mul b a) :=
  encodedLength_of_nextWords _ b.length_nextWords_le

theorem EncodedLength.mli (b : DstOperand) (a : SrcOperand) : EncodedLength.Statement (.mli b a) :=
  encodedLength_of_nextWords _ b.length_nextWords_le

theorem EncodedLength.div (b : DstOperand) (a : SrcOperand) : EncodedLength.Statement (.div b a) :=
  encodedLength_of_nextWords _ b.length_nextWords_le

theorem EncodedLength.dvi (b : DstOperand) (a : SrcOperand) : EncodedLength.Statement (.dvi b a) :=
  encodedLength_of_nextWords _ b.length_nextWords_le

theorem EncodedLength.mod (b : DstOperand) (a : SrcOperand) : EncodedLength.Statement (.mod b a) :=
  encodedLength_of_nextWords _ b.length_nextWords_le

theorem EncodedLength.mdi (b : DstOperand) (a : SrcOperand) : EncodedLength.Statement (.mdi b a) :=
  encodedLength_of_nextWords _ b.length_nextWords_le

theorem EncodedLength.and (b : DstOperand) (a : SrcOperand) : EncodedLength.Statement (.and b a) :=
  encodedLength_of_nextWords _ b.length_nextWords_le

theorem EncodedLength.bor (b : DstOperand) (a : SrcOperand) : EncodedLength.Statement (.bor b a) :=
  encodedLength_of_nextWords _ b.length_nextWords_le

theorem EncodedLength.xor (b : DstOperand) (a : SrcOperand) : EncodedLength.Statement (.xor b a) :=
  encodedLength_of_nextWords _ b.length_nextWords_le

theorem EncodedLength.shr (b : DstOperand) (a : SrcOperand) : EncodedLength.Statement (.shr b a) :=
  encodedLength_of_nextWords _ b.length_nextWords_le

theorem EncodedLength.asr (b : DstOperand) (a : SrcOperand) : EncodedLength.Statement (.asr b a) :=
  encodedLength_of_nextWords _ b.length_nextWords_le

theorem EncodedLength.shl (b : DstOperand) (a : SrcOperand) : EncodedLength.Statement (.shl b a) :=
  encodedLength_of_nextWords _ b.length_nextWords_le

theorem EncodedLength.ifb (b : DstOperand) (a : SrcOperand) : EncodedLength.Statement (.ifb b a) :=
  encodedLength_of_nextWords _ b.length_nextWords_le

theorem EncodedLength.ifc (b : DstOperand) (a : SrcOperand) : EncodedLength.Statement (.ifc b a) :=
  encodedLength_of_nextWords _ b.length_nextWords_le

theorem EncodedLength.ife (b : DstOperand) (a : SrcOperand) : EncodedLength.Statement (.ife b a) :=
  encodedLength_of_nextWords _ b.length_nextWords_le

theorem EncodedLength.ifn (b : DstOperand) (a : SrcOperand) : EncodedLength.Statement (.ifn b a) :=
  encodedLength_of_nextWords _ b.length_nextWords_le

theorem EncodedLength.ifg (b : DstOperand) (a : SrcOperand) : EncodedLength.Statement (.ifg b a) :=
  encodedLength_of_nextWords _ b.length_nextWords_le

theorem EncodedLength.ifa (b : DstOperand) (a : SrcOperand) : EncodedLength.Statement (.ifa b a) :=
  encodedLength_of_nextWords _ b.length_nextWords_le

theorem EncodedLength.ifl (b : DstOperand) (a : SrcOperand) : EncodedLength.Statement (.ifl b a) :=
  encodedLength_of_nextWords _ b.length_nextWords_le

theorem EncodedLength.ifu (b : DstOperand) (a : SrcOperand) : EncodedLength.Statement (.ifu b a) :=
  encodedLength_of_nextWords _ b.length_nextWords_le

theorem EncodedLength.adx (b : DstOperand) (a : SrcOperand) : EncodedLength.Statement (.adx b a) :=
  encodedLength_of_nextWords _ b.length_nextWords_le

theorem EncodedLength.sbx (b : DstOperand) (a : SrcOperand) : EncodedLength.Statement (.sbx b a) :=
  encodedLength_of_nextWords _ b.length_nextWords_le

theorem EncodedLength.sti (b : DstOperand) (a : SrcOperand) : EncodedLength.Statement (.sti b a) :=
  encodedLength_of_nextWords _ b.length_nextWords_le

theorem EncodedLength.std (b : DstOperand) (a : SrcOperand) : EncodedLength.Statement (.std b a) :=
  encodedLength_of_nextWords _ b.length_nextWords_le

theorem EncodedLength.reservedBasic18 (b : DstOperand) (a : SrcOperand) : EncodedLength.Statement (.reservedBasic18 b a) :=
  encodedLength_of_nextWords _ b.length_nextWords_le

theorem EncodedLength.reservedBasic19 (b : DstOperand) (a : SrcOperand) : EncodedLength.Statement (.reservedBasic19 b a) :=
  encodedLength_of_nextWords _ b.length_nextWords_le

theorem EncodedLength.reservedBasic1C (b : DstOperand) (a : SrcOperand) : EncodedLength.Statement (.reservedBasic1C b a) :=
  encodedLength_of_nextWords _ b.length_nextWords_le

theorem EncodedLength.reservedBasic1D (b : DstOperand) (a : SrcOperand) : EncodedLength.Statement (.reservedBasic1D b a) :=
  encodedLength_of_nextWords _ b.length_nextWords_le

theorem EncodedLength.jsr (a : SrcOperand) : EncodedLength.Statement (.jsr a) :=
  encodedLength_of_nextWords _ (Nat.zero_le 1)

theorem EncodedLength.int (a : SrcOperand) : EncodedLength.Statement (.int a) :=
  encodedLength_of_nextWords _ (Nat.zero_le 1)

theorem EncodedLength.iag (a : SrcOperand) : EncodedLength.Statement (.iag a) :=
  encodedLength_of_nextWords _ (Nat.zero_le 1)

theorem EncodedLength.ias (a : SrcOperand) : EncodedLength.Statement (.ias a) :=
  encodedLength_of_nextWords _ (Nat.zero_le 1)

theorem EncodedLength.rfi (a : SrcOperand) : EncodedLength.Statement (.rfi a) :=
  encodedLength_of_nextWords _ (Nat.zero_le 1)

theorem EncodedLength.iaq (a : SrcOperand) : EncodedLength.Statement (.iaq a) :=
  encodedLength_of_nextWords _ (Nat.zero_le 1)

theorem EncodedLength.hwn (a : SrcOperand) : EncodedLength.Statement (.hwn a) :=
  encodedLength_of_nextWords _ (Nat.zero_le 1)

theorem EncodedLength.hwq (a : SrcOperand) : EncodedLength.Statement (.hwq a) :=
  encodedLength_of_nextWords _ (Nat.zero_le 1)

theorem EncodedLength.hwi (a : SrcOperand) : EncodedLength.Statement (.hwi a) :=
  encodedLength_of_nextWords _ (Nat.zero_le 1)

theorem EncodedLength.reservedSpecial00 (a : SrcOperand) : EncodedLength.Statement (.reservedSpecial00 a) :=
  encodedLength_of_nextWords _ (Nat.zero_le 1)

theorem EncodedLength.reservedSpecial02 (a : SrcOperand) : EncodedLength.Statement (.reservedSpecial02 a) :=
  encodedLength_of_nextWords _ (Nat.zero_le 1)

theorem EncodedLength.reservedSpecial03 (a : SrcOperand) : EncodedLength.Statement (.reservedSpecial03 a) :=
  encodedLength_of_nextWords _ (Nat.zero_le 1)

theorem EncodedLength.reservedSpecial04 (a : SrcOperand) : EncodedLength.Statement (.reservedSpecial04 a) :=
  encodedLength_of_nextWords _ (Nat.zero_le 1)

theorem EncodedLength.reservedSpecial05 (a : SrcOperand) : EncodedLength.Statement (.reservedSpecial05 a) :=
  encodedLength_of_nextWords _ (Nat.zero_le 1)

theorem EncodedLength.reservedSpecial06 (a : SrcOperand) : EncodedLength.Statement (.reservedSpecial06 a) :=
  encodedLength_of_nextWords _ (Nat.zero_le 1)

theorem EncodedLength.reservedSpecial07 (a : SrcOperand) : EncodedLength.Statement (.reservedSpecial07 a) :=
  encodedLength_of_nextWords _ (Nat.zero_le 1)

theorem EncodedLength.reservedSpecial0D (a : SrcOperand) : EncodedLength.Statement (.reservedSpecial0D a) :=
  encodedLength_of_nextWords _ (Nat.zero_le 1)

theorem EncodedLength.reservedSpecial0E (a : SrcOperand) : EncodedLength.Statement (.reservedSpecial0E a) :=
  encodedLength_of_nextWords _ (Nat.zero_le 1)

theorem EncodedLength.reservedSpecial0F (a : SrcOperand) : EncodedLength.Statement (.reservedSpecial0F a) :=
  encodedLength_of_nextWords _ (Nat.zero_le 1)

theorem EncodedLength.reservedSpecial13 (a : SrcOperand) : EncodedLength.Statement (.reservedSpecial13 a) :=
  encodedLength_of_nextWords _ (Nat.zero_le 1)

theorem EncodedLength.reservedSpecial14 (a : SrcOperand) : EncodedLength.Statement (.reservedSpecial14 a) :=
  encodedLength_of_nextWords _ (Nat.zero_le 1)

theorem EncodedLength.reservedSpecial15 (a : SrcOperand) : EncodedLength.Statement (.reservedSpecial15 a) :=
  encodedLength_of_nextWords _ (Nat.zero_le 1)

theorem EncodedLength.reservedSpecial16 (a : SrcOperand) : EncodedLength.Statement (.reservedSpecial16 a) :=
  encodedLength_of_nextWords _ (Nat.zero_le 1)

theorem EncodedLength.reservedSpecial17 (a : SrcOperand) : EncodedLength.Statement (.reservedSpecial17 a) :=
  encodedLength_of_nextWords _ (Nat.zero_le 1)

theorem EncodedLength.reservedSpecial18 (a : SrcOperand) : EncodedLength.Statement (.reservedSpecial18 a) :=
  encodedLength_of_nextWords _ (Nat.zero_le 1)

theorem EncodedLength.reservedSpecial19 (a : SrcOperand) : EncodedLength.Statement (.reservedSpecial19 a) :=
  encodedLength_of_nextWords _ (Nat.zero_le 1)

theorem EncodedLength.reservedSpecial1A (a : SrcOperand) : EncodedLength.Statement (.reservedSpecial1A a) :=
  encodedLength_of_nextWords _ (Nat.zero_le 1)

theorem EncodedLength.reservedSpecial1B (a : SrcOperand) : EncodedLength.Statement (.reservedSpecial1B a) :=
  encodedLength_of_nextWords _ (Nat.zero_le 1)

theorem EncodedLength.reservedSpecial1C (a : SrcOperand) : EncodedLength.Statement (.reservedSpecial1C a) :=
  encodedLength_of_nextWords _ (Nat.zero_le 1)

theorem EncodedLength.reservedSpecial1D (a : SrcOperand) : EncodedLength.Statement (.reservedSpecial1D a) :=
  encodedLength_of_nextWords _ (Nat.zero_le 1)

theorem EncodedLength.reservedSpecial1E (a : SrcOperand) : EncodedLength.Statement (.reservedSpecial1E a) :=
  encodedLength_of_nextWords _ (Nat.zero_le 1)

theorem EncodedLength.reservedSpecial1F (a : SrcOperand) : EncodedLength.Statement (.reservedSpecial1F a) :=
  encodedLength_of_nextWords _ (Nat.zero_le 1)

end Sys2Proof.Laws
end

