-- ==== Sys2Proof/Laws/Skip.lean ====
section
/-! SUPPORT. The skip of a failed conditional (40_execution.md R154): the search with fuel 65536 answers exactly where the skip
ends. -/

namespace Sys2Proof.Machine

theorem skipFrom_sound {m : Memory} {n : Nat} {pc q : Word} {k : Nat} (h : skipFrom m n pc = some (q, k)) :
    SkipsTo m pc q k := by
  induction n generalizing pc q k with
  | zero => simp [skipFrom] at h
  | succ n ih =>
    simp only [skipFrom] at h
    split_ifs at h with hc
    · simp only [Option.map_eq_some_iff, Prod.mk.injEq] at h
      obtain ⟨⟨q', k'⟩, hr, rfl, rfl⟩ := h
      exact .more hc (ih hr)
    · simp only [Option.some.injEq, Prod.mk.injEq] at h
      obtain ⟨rfl, rfl⟩ := h
      exact .last (by simpa using hc)

theorem skipFrom_complete {m : Memory} {pc q : Word} {k : Nat} (h : SkipsTo m pc q k) {n : Nat} (hn : k ≤ n) :
    skipFrom m n pc = some (q, k) := by
  induction h generalizing n with
  | last h =>
    obtain ⟨n, rfl⟩ : ∃ j, n = j + 1 := ⟨n - 1, by omega⟩
    simp [skipFrom, h]
  | more h _ ih =>
    obtain ⟨n, rfl⟩ : ∃ j, n = j + 1 := ⟨n - 1, by omega⟩
    simp [skipFrom, h, ih (n := n) (by omega)]

/-- The address after the instruction at an address. -/
def nextAddress (m : Memory) (pc : Word) : Word := pc + BitVec.ofNat 16 (wordLength (m.read pc))

/-- A skip over `k` instructions meets `k - 1` conditionals and then one that is none. -/
theorem SkipsTo.chain {m : Memory} {pc q : Word} {k : Nat} (h : SkipsTo m pc q k) :
    0 < k ∧ (∀ i, i + 1 < k → isConditionalWord (m.read ((nextAddress m)^[i] pc)) = true) ∧
      isConditionalWord (m.read ((nextAddress m)^[k - 1] pc)) = false := by
  induction h with
  | last h => exact ⟨by omega, fun i hi => by omega, h⟩
  | @more pc q k h _ ih =>
    refine ⟨by omega, fun i hi => ?_, ?_⟩
    · cases i with
      | zero => exact h
      | succ i => exact ih.2.1 i (by omega)
    · obtain ⟨j, rfl⟩ : ∃ j, k = j + 1 := ⟨k - 1, by omega⟩
      simpa [Function.iterate_succ, nextAddress] using ih.2.2

/-- A skip that ends passes over at most 65536 instructions: it meets no address twice. -/
theorem SkipsTo.count_le {m : Memory} {pc q : Word} {k : Nat} (h : SkipsTo m pc q k) : k ≤ 65536 := by
  obtain ⟨hk, hc, hl⟩ := h.chain
  have hne : ∀ i j, i < j → j < k → (nextAddress m)^[i] pc ≠ (nextAddress m)^[j] pc := by
    intro i j hij hj e
    have e2 : (nextAddress m)^[k - 1 - j + i] pc = (nextAddress m)^[k - 1] pc := by
      rw [Function.iterate_add_apply, e, ← Function.iterate_add_apply]
      congr 2
      omega
    have := hc (k - 1 - j + i) (by omega)
    rw [e2, hl] at this
    exact absurd this (by decide)
  have hinj : Function.Injective (fun i : Fin k => ((nextAddress m)^[i.1] pc).toFin) := by
    intro i j e
    have e' : (nextAddress m)^[i.1] pc = (nextAddress m)^[j.1] pc := BitVec.eq_of_toFin_eq e
    rcases Nat.lt_trichotomy i.1 j.1 with h | h | h
    · exact absurd e' (hne _ _ h j.2)
    · exact Fin.ext h
    · exact absurd e'.symm (hne _ _ h i.2)
  simpa using Fintype.card_le_of_injective _ hinj

/-- The skip answers exactly where the skip of R154 ends, and nothing when it never ends. -/
theorem State.skip_eq_some (s : State) (q : Word) (k : Nat) : s.skip = some (q, k) ↔ SkipsTo s.mem s.pc q k :=
  ⟨skipFrom_sound, fun h => skipFrom_complete h h.count_le⟩

end Sys2Proof.Machine
end

