-- ==== Sys2Proof/Tests/Slice0.lean ====
section
/-! SUPPORT. Tests of the model against the spec's own encodings and vectors (30_encoding.md, 95_test_vectors.md), and for every
statement with hypotheses a witness that meets them. -/

open Sys2Proof Sys2Proof.Machine Sys2Proof.Claims

namespace Sys2Proof.Tests

set_option Elab.async false

/-! ## Well-formedness: the one check, and what it refuses (30 R107) -/

theorem test_wellFormed_refuses_short_31 : Instr.wellFormed (.set (.common (.reg .a)) (.short 31)) = false := by decide

theorem test_wellFormed_refuses_short_0xFFFE : Instr.wellFormed (.jsr (.short 0xFFFE)) = false := by decide

theorem test_wellFormed_accepts_short_range :
    Instr.wellFormed (.set (.common (.reg .a)) (.short 0xFFFF)) = true ∧
      Instr.wellFormed (.set (.common (.reg .a)) (.short 0)) = true ∧ Instr.wellFormed (.jsr (.short 30)) = true := by
  decide

/-! ## Decoding: one word per opcode, written out as aaaaaa_bbbbb_ooooo (30 R101, R102, R111 to R114) -/

theorem test_decode_set :
    decode [0b000010_00011_00001] = .ok (.set (.common (.reg .x)) (.common (.reg .c))) [] := by decide

theorem test_decode_add :
    decode [0b000010_00011_00010] = .ok (.add (.common (.reg .x)) (.common (.reg .c))) [] := by decide

theorem test_decode_sub :
    decode [0b000010_00011_00011] = .ok (.sub (.common (.reg .x)) (.common (.reg .c))) [] := by decide

theorem test_decode_mul :
    decode [0b000010_00011_00100] = .ok (.mul (.common (.reg .x)) (.common (.reg .c))) [] := by decide

theorem test_decode_mli :
    decode [0b000010_00011_00101] = .ok (.mli (.common (.reg .x)) (.common (.reg .c))) [] := by decide

theorem test_decode_div :
    decode [0b000010_00011_00110] = .ok (.div (.common (.reg .x)) (.common (.reg .c))) [] := by decide

theorem test_decode_dvi :
    decode [0b000010_00011_00111] = .ok (.dvi (.common (.reg .x)) (.common (.reg .c))) [] := by decide

theorem test_decode_mod :
    decode [0b000010_00011_01000] = .ok (.mod (.common (.reg .x)) (.common (.reg .c))) [] := by decide

theorem test_decode_mdi :
    decode [0b000010_00011_01001] = .ok (.mdi (.common (.reg .x)) (.common (.reg .c))) [] := by decide

theorem test_decode_and :
    decode [0b000010_00011_01010] = .ok (.and (.common (.reg .x)) (.common (.reg .c))) [] := by decide

theorem test_decode_bor :
    decode [0b000010_00011_01011] = .ok (.bor (.common (.reg .x)) (.common (.reg .c))) [] := by decide

theorem test_decode_xor :
    decode [0b000010_00011_01100] = .ok (.xor (.common (.reg .x)) (.common (.reg .c))) [] := by decide

theorem test_decode_shr :
    decode [0b000010_00011_01101] = .ok (.shr (.common (.reg .x)) (.common (.reg .c))) [] := by decide

theorem test_decode_asr :
    decode [0b000010_00011_01110] = .ok (.asr (.common (.reg .x)) (.common (.reg .c))) [] := by decide

theorem test_decode_shl :
    decode [0b000010_00011_01111] = .ok (.shl (.common (.reg .x)) (.common (.reg .c))) [] := by decide

theorem test_decode_ifb :
    decode [0b000010_00011_10000] = .ok (.ifb (.common (.reg .x)) (.common (.reg .c))) [] := by decide

theorem test_decode_ifc :
    decode [0b000010_00011_10001] = .ok (.ifc (.common (.reg .x)) (.common (.reg .c))) [] := by decide

theorem test_decode_ife :
    decode [0b000010_00011_10010] = .ok (.ife (.common (.reg .x)) (.common (.reg .c))) [] := by decide

theorem test_decode_ifn :
    decode [0b000010_00011_10011] = .ok (.ifn (.common (.reg .x)) (.common (.reg .c))) [] := by decide

theorem test_decode_ifg :
    decode [0b000010_00011_10100] = .ok (.ifg (.common (.reg .x)) (.common (.reg .c))) [] := by decide

theorem test_decode_ifa :
    decode [0b000010_00011_10101] = .ok (.ifa (.common (.reg .x)) (.common (.reg .c))) [] := by decide

theorem test_decode_ifl :
    decode [0b000010_00011_10110] = .ok (.ifl (.common (.reg .x)) (.common (.reg .c))) [] := by decide

theorem test_decode_ifu :
    decode [0b000010_00011_10111] = .ok (.ifu (.common (.reg .x)) (.common (.reg .c))) [] := by decide

theorem test_decode_adx :
    decode [0b000010_00011_11010] = .ok (.adx (.common (.reg .x)) (.common (.reg .c))) [] := by decide

theorem test_decode_sbx :
    decode [0b000010_00011_11011] = .ok (.sbx (.common (.reg .x)) (.common (.reg .c))) [] := by decide

theorem test_decode_sti :
    decode [0b000010_00011_11110] = .ok (.sti (.common (.reg .x)) (.common (.reg .c))) [] := by decide

theorem test_decode_std :
    decode [0b000010_00011_11111] = .ok (.std (.common (.reg .x)) (.common (.reg .c))) [] := by decide

theorem test_decode_reservedBasic18 :
    decode [0b000010_00011_11000] = .ok (.reservedBasic18 (.common (.reg .x)) (.common (.reg .c))) [] := by decide

theorem test_decode_reservedBasic19 :
    decode [0b000010_00011_11001] = .ok (.reservedBasic19 (.common (.reg .x)) (.common (.reg .c))) [] := by decide

theorem test_decode_reservedBasic1C :
    decode [0b000010_00011_11100] = .ok (.reservedBasic1C (.common (.reg .x)) (.common (.reg .c))) [] := by decide

theorem test_decode_reservedBasic1D :
    decode [0b000010_00011_11101] = .ok (.reservedBasic1D (.common (.reg .x)) (.common (.reg .c))) [] := by decide

theorem test_decode_jsr : decode [0b000100_00001_00000] = .ok (.jsr (.common (.reg .y))) [] := by decide

theorem test_decode_int : decode [0b000100_01000_00000] = .ok (.int (.common (.reg .y))) [] := by decide

theorem test_decode_iag : decode [0b000100_01001_00000] = .ok (.iag (.common (.reg .y))) [] := by decide

theorem test_decode_ias : decode [0b000100_01010_00000] = .ok (.ias (.common (.reg .y))) [] := by decide

theorem test_decode_rfi : decode [0b000100_01011_00000] = .ok (.rfi (.common (.reg .y))) [] := by decide

theorem test_decode_iaq : decode [0b000100_01100_00000] = .ok (.iaq (.common (.reg .y))) [] := by decide

theorem test_decode_hwn : decode [0b000100_10000_00000] = .ok (.hwn (.common (.reg .y))) [] := by decide

theorem test_decode_hwq : decode [0b000100_10001_00000] = .ok (.hwq (.common (.reg .y))) [] := by decide

theorem test_decode_hwi : decode [0b000100_10010_00000] = .ok (.hwi (.common (.reg .y))) [] := by decide

theorem test_decode_reservedSpecial00 : decode [0b000100_00000_00000] = .ok (.reservedSpecial00 (.common (.reg .y))) [] := by decide

theorem test_decode_reservedSpecial02 : decode [0b000100_00010_00000] = .ok (.reservedSpecial02 (.common (.reg .y))) [] := by decide

theorem test_decode_reservedSpecial03 : decode [0b000100_00011_00000] = .ok (.reservedSpecial03 (.common (.reg .y))) [] := by decide

theorem test_decode_reservedSpecial04 : decode [0b000100_00100_00000] = .ok (.reservedSpecial04 (.common (.reg .y))) [] := by decide

theorem test_decode_reservedSpecial05 : decode [0b000100_00101_00000] = .ok (.reservedSpecial05 (.common (.reg .y))) [] := by decide

theorem test_decode_reservedSpecial06 : decode [0b000100_00110_00000] = .ok (.reservedSpecial06 (.common (.reg .y))) [] := by decide

theorem test_decode_reservedSpecial07 : decode [0b000100_00111_00000] = .ok (.reservedSpecial07 (.common (.reg .y))) [] := by decide

theorem test_decode_reservedSpecial0D : decode [0b000100_01101_00000] = .ok (.reservedSpecial0D (.common (.reg .y))) [] := by decide

theorem test_decode_reservedSpecial0E : decode [0b000100_01110_00000] = .ok (.reservedSpecial0E (.common (.reg .y))) [] := by decide

theorem test_decode_reservedSpecial0F : decode [0b000100_01111_00000] = .ok (.reservedSpecial0F (.common (.reg .y))) [] := by decide

theorem test_decode_reservedSpecial13 : decode [0b000100_10011_00000] = .ok (.reservedSpecial13 (.common (.reg .y))) [] := by decide

theorem test_decode_reservedSpecial14 : decode [0b000100_10100_00000] = .ok (.reservedSpecial14 (.common (.reg .y))) [] := by decide

theorem test_decode_reservedSpecial15 : decode [0b000100_10101_00000] = .ok (.reservedSpecial15 (.common (.reg .y))) [] := by decide

theorem test_decode_reservedSpecial16 : decode [0b000100_10110_00000] = .ok (.reservedSpecial16 (.common (.reg .y))) [] := by decide

theorem test_decode_reservedSpecial17 : decode [0b000100_10111_00000] = .ok (.reservedSpecial17 (.common (.reg .y))) [] := by decide

theorem test_decode_reservedSpecial18 : decode [0b000100_11000_00000] = .ok (.reservedSpecial18 (.common (.reg .y))) [] := by decide

theorem test_decode_reservedSpecial19 : decode [0b000100_11001_00000] = .ok (.reservedSpecial19 (.common (.reg .y))) [] := by decide

theorem test_decode_reservedSpecial1A : decode [0b000100_11010_00000] = .ok (.reservedSpecial1A (.common (.reg .y))) [] := by decide

theorem test_decode_reservedSpecial1B : decode [0b000100_11011_00000] = .ok (.reservedSpecial1B (.common (.reg .y))) [] := by decide

theorem test_decode_reservedSpecial1C : decode [0b000100_11100_00000] = .ok (.reservedSpecial1C (.common (.reg .y))) [] := by decide

theorem test_decode_reservedSpecial1D : decode [0b000100_11101_00000] = .ok (.reservedSpecial1D (.common (.reg .y))) [] := by decide

theorem test_decode_reservedSpecial1E : decode [0b000100_11110_00000] = .ok (.reservedSpecial1E (.common (.reg .y))) [] := by decide

theorem test_decode_reservedSpecial1F : decode [0b000100_11111_00000] = .ok (.reservedSpecial1F (.common (.reg .y))) [] := by decide

/-! ## Decoding: every operand form, in a and in b, with both next words in their order (30 R104, R106, R107) -/

theorem test_decode_a_forms :
    decodeSrc 0b000111 9 = .common (.reg .j) ∧ decodeSrc 0b001110 9 = .common (.ind .i) ∧
      decodeSrc 0b010001 9 = .common (.idx .b 9) ∧ decodeSrc 0b011000 9 = .pop ∧ decodeSrc 0b011001 9 = .common .peek ∧
      decodeSrc 0b011010 9 = .common (.pick 9) ∧ decodeSrc 0b011011 9 = .common .sp ∧
      decodeSrc 0b011100 9 = .common .pc ∧ decodeSrc 0b011101 9 = .common .ex ∧
      decodeSrc 0b011110 9 = .common (.abs 9) ∧ decodeSrc 0b011111 9 = .common (.lit 9) ∧
      decodeSrc 0b100000 9 = .short 0xFFFF ∧ decodeSrc 0b100001 9 = .short 0 ∧ decodeSrc 0b111111 9 = .short 30 := by
  decide

theorem test_decode_b_forms :
    decodeDst 0b00101 9 = .common (.reg .z) ∧ decodeDst 0b01100 9 = .common (.ind .y) ∧
      decodeDst 0b10111 9 = .common (.idx .j 9) ∧ decodeDst 0b11000 9 = .push ∧ decodeDst 0b11001 9 = .common .peek ∧
      decodeDst 0b11010 9 = .common (.pick 9) ∧ decodeDst 0b11011 9 = .common .sp ∧ decodeDst 0b11100 9 = .common .pc ∧
      decodeDst 0b11101 9 = .common .ex ∧ decodeDst 0b11110 9 = .common (.abs 9) ∧
      decodeDst 0b11111 9 = .common (.lit 9) := by
  decide

theorem test_decode_rejects_truncated :
    decode [] = .rejected .noFirstWord ∧ decode [0x7FC1, 0x0020] = .rejected .missingNextWord := by decide

theorem test_decodeTableWord :
    decodeTableWord 48 0x1000_0020_7FC1 = some (.set (.common (.abs 0x1000)) (.common (.lit 0x0020))) ∧
      decodeTableWord 16 0x8382 = some .halt ∧ decodeTableWord 16 0x7C01 = some (.set (.common (.reg .a)) (.common (.lit 0))) := by
  decide

theorem test_encode_halt_and_abs :
    encode .halt = [0x8382] ∧ encode (.set (.common (.abs 0x1000)) (.common (.lit 0x0020))) = [0x7FC1, 0x0020, 0x1000] := by
  decide

/-! ## One step on a small state -/

/-- The reset state with the given general registers. -/
def regs (a b c x y z i j : Word) : State :=
  { State.reset with gen := { a := a, b := b, c := c, x := x, y := y, z := z, i := i, j := j } }

/-- The reset state with A and B. -/
def ab (a b : Word) : State := regs a b 0 0 0 0 0 0

/-- Store words from an address on. -/
def poke (addr : Word) (ws : List Word) (s : State) : State := { s with mem := s.mem.writeBlock addr ws }

/-- What one step over the words at PC leaves, seen through `f`; none where the step has no successor. -/
def after {β : Type} (ws : List Word) (s : State) (f : State → β) : Option β :=
  match step (poke s.pc ws s) with
  | .next t => some (f t)
  | .fault _ => none
  | .refused _ => none

/-- A, EX and the cycles. -/
def axc (t : State) : Word × Word × Nat := (t.gen.a, t.ex, t.cycles)

/-- 95 AR1. -/
theorem test_set_short_30 :
    after [0xFC01] (ab 0 0) axc =
      some (30, 0, 1) := by
  decide +kernel

/-- 95 AR3. -/
theorem test_set_long_31 :
    after [0x7C01, 31] (ab 0 0) axc =
      some (31, 0, 2) := by
  decide +kernel

/-- 95 AR4. -/
theorem test_add_carry :
    after [0x0402] (ab 0x8000 0x8000) axc =
      some (0, 1, 2) := by
  decide +kernel

/-- 95 AR6. -/
theorem test_sub_borrow :
    after [0x8803] (ab 0 0) axc =
      some (0xFFFF, 0xFFFF, 2) := by
  decide +kernel

/-- 95 AR7. -/
theorem test_sub_equal :
    after [0x0403] (ab 5 5) axc =
      some (0, 0, 2) := by
  decide +kernel

/-- 95 AR8. -/
theorem test_mul_high :
    after [0x0404] (ab 0xFFFF 0xFFFF) axc =
      some (1, 0xFFFE, 2) := by
  decide +kernel

/-- 95 AR10. -/
theorem test_mli_negative :
    after [0x9005] (ab 0xFFFE 0) axc =
      some (0xFFFA, 0xFFFF, 2) := by
  decide +kernel

/-- 95 AR11. -/
theorem test_mli_min :
    after [0x0405] (ab 0x8000 0x8000) axc =
      some (0, 0x4000, 2) := by
  decide +kernel

/-- 95 AR13. -/
theorem test_div_fraction :
    after [0x0406] (ab 1 3) axc =
      some (0, 0x5555, 3) := by
  decide +kernel

/-- 95 AR14. -/
theorem test_div_zero :
    after [0x0406] (ab 5 0) axc =
      some (0, 0, 3) := by
  decide +kernel

/-- 95 AR16. -/
theorem test_dvi_toward_zero :
    after [0x0407] (ab 7 0xFFFE) axc =
      some (0xFFFD, 0x8000, 3) := by
  decide +kernel

/-- 95 AR17. -/
theorem test_dvi_overflow :
    after [0x0407] (ab 0x8000 0xFFFF) axc =
      some (0x8000, 0, 3) := by
  decide +kernel

/-- 95 AR20. -/
theorem test_mod_16 :
    after [0xC408] (ab 0xFFFF 0) axc =
      some (0x000F, 0, 3) := by
  decide +kernel

/-- 95 AR22. -/
theorem test_mdi_sign_of_b :
    after [0xC409] (ab 0xFFF9 0) axc =
      some (0xFFF9, 0, 3) := by
  decide +kernel

/-- 95 AR24. -/
theorem test_mdi_min :
    after [0x0409] (ab 0x8000 0xFFFF) axc =
      some (0, 0, 3) := by
  decide +kernel

/-- 95 AR26. -/
theorem test_adx_three_terms :
    after [0x041A] { ab 0xFFFF 0xFFFF with ex := 0xFFFF } axc =
      some (0xFFFD, 1, 3) := by
  decide +kernel

/-- 95 AR27. -/
theorem test_sbx_underflow :
    after [0x881B] (ab 0 0) axc =
      some (0xFFFF, 0xFFFF, 3) := by
  decide +kernel

/-- 95 AR28. -/
theorem test_sbx_overflow :
    after [0x041B] { ab 5 3 with ex := 0xFFFF } axc =
      some (1, 1, 3) := by
  decide +kernel

/-- 95 BW1. -/
theorem test_and_15 :
    after [0xC00A] (ab 0x1234 0) axc =
      some (4, 0, 1) := by
  decide +kernel

/-- 95 BW2. -/
theorem test_bor_16 :
    after [0xC40B] (ab 1 0) axc =
      some (0x0011, 0, 1) := by
  decide +kernel

/-- 95 BW4. -/
theorem test_xor_ones :
    after [0x800C] (ab 0x1234 0) axc =
      some (0xEDCB, 0, 1) := by
  decide +kernel

/-- 95 BW6. -/
theorem test_shr_16 :
    after [0xC40D] (ab 0xABCD 0) axc =
      some (0, 0xABCD, 1) := by
  decide +kernel

/-- 95 BW8. -/
theorem test_shr_40 :
    after [0x040D] (ab 0xABCD 40) axc =
      some (0, 0, 1) := by
  decide +kernel

/-- 95 BW11. -/
theorem test_asr_17 :
    after [0x040E] (ab 0x8000 17) axc =
      some (0xFFFF, 0xC000, 1) := by
  decide +kernel

/-- 95 BW10. -/
theorem test_asr_4 :
    after [0x940E] (ab 0xFFF0 0) axc =
      some (0xFFFF, 0, 1) := by
  decide +kernel

/-- 95 BW13. -/
theorem test_shl_4 :
    after [0x940F] (ab 0x1234 0) axc =
      some (0x2340, 1, 1) := by
  decide +kernel

/-- 95 BW15. -/
theorem test_shl_0 :
    after [0x840F] (ab 0x1234 0) axc =
      some (0x1234, 0, 1) := by
  decide +kernel

/-- 95 X7: the result wins over the carry. -/
theorem test_add_ex_destination :
    after [0x03A2] (ab 0x8000 0) (fun t => t.ex) =
      some 0x8000 := by
  decide +kernel

/-- 95 X1. -/
theorem test_set_push_pop :
    after [0x6301] (poke 0xFFFE [5] { ab 0 0 with sp := 0xFFFE }) (fun t => (t.sp, t.read 0xFFFE)) =
      some (0xFFFE, 5) := by
  decide +kernel

/-! ### Conditionals: PC and the cycles -/

/-- 95 IF1. -/
theorem test_ifb_skips :
    after [0xC410, 0x8821] (ab 0x000F 0) (fun t => (t.pc, t.cycles)) =
      some (2, 3) := by
  decide +kernel

/-- 95 IF2. -/
theorem test_ifc_true :
    after [0xC411] (ab 0x000F 0) (fun t => (t.pc, t.cycles)) =
      some (1, 2) := by
  decide +kernel

/-- 95 IF3. -/
theorem test_ife_skips_three_words :
    after [0x8812, 0x7FC1, 0x0030, 0x1000] (ab 0 0) (fun t => (t.pc, t.cycles)) =
      some (4, 3) := by
  decide +kernel

/-- 95 IF4. -/
theorem test_ife_skips_chain :
    after [0x9812, 0x8814, 0x8821] (ab 0 0) (fun t => (t.pc, t.cycles)) =
      some (3, 4) := by
  decide +kernel

/-- 95 IF5. -/
theorem test_ifn_skips_chain_of_two_words :
    after [0x8413, 0x7C12, 0x1234, 0x8B01] (ab 0 0) (fun t => (t.pc, t.cycles)) =
      some (4, 4) := by
  decide +kernel

/-- 95 IF6. -/
theorem test_ifg_unsigned :
    after [0x8814] (ab 0xFFFF 0) (fun t => (t.pc, t.cycles)) =
      some (1, 2) := by
  decide +kernel

/-- 95 IF7. -/
theorem test_ifa_signed :
    after [0x8815, 0x8821] (ab 0xFFFF 0) (fun t => (t.pc, t.cycles)) =
      some (2, 3) := by
  decide +kernel

/-- 95 IF8. -/
theorem test_ifl_unsigned :
    after [0x0416] (ab 1 0xFFFF) (fun t => (t.pc, t.cycles)) =
      some (1, 2) := by
  decide +kernel

/-- 95 IF9. -/
theorem test_ifu_signed :
    after [0x8417] (ab 0xFFFE 0) (fun t => (t.pc, t.cycles)) =
      some (1, 2) := by
  decide +kernel

/-- 95 IF10. -/
theorem test_ifu_skips :
    after [0x8017, 0x8821] (ab 1 0) (fun t => (t.pc, t.cycles)) =
      some (2, 3) := by
  decide +kernel

/-- 95 IF11. -/
theorem test_ife_pop_moves_sp :
    after [0x6012, 0x8821] (poke 0xFFFE [3] { ab 0 0 with sp := 0xFFFE }) (fun t => (t.pc, t.sp)) =
      some (2, 0xFFFF) := by
  decide +kernel

/-! ### Block transfer, control and interrupts -/

/-- 95 BT1. -/
theorem test_sti_memory :
    after [0x3DDE] (poke 0x20 [0x55] (regs 0 0 0 0 0 0 0x10 0x20)) (fun t => (t.read 0x10, t.gen.i, t.gen.j, t.cycles)) =
      some (0x55, 0x11, 0x21, 2) := by
  decide +kernel

/-- 95 BT3. -/
theorem test_sti_to_i :
    after [0x98DE] (ab 0 0) (fun t => (t.gen.i, t.gen.j)) =
      some (6, 1) := by
  decide +kernel

/-- 95 BT5. -/
theorem test_std_wraps :
    after [0x841F] (ab 7 0) (fun t => (t.gen.a, t.gen.i, t.gen.j)) =
      some (0, 0xFFFF, 0xFFFF) := by
  decide +kernel

/-- 95 BT2. -/
theorem test_std_memory :
    after [0x3DDF] (poke 0x20 [0x55] (regs 0 0 0 0 0 0 0x10 0x20)) (fun t => (t.read 0x10, t.gen.i, t.gen.j)) =
      some (0x55, 0x0F, 0x1F) := by
  decide +kernel

/-- 95 CI1. -/
theorem test_jsr_pushes_return :
    after [0xA420] { ab 0 0 with pc := 5 } (fun t => (t.read 0xFFFF, t.sp, t.pc, t.cycles)) =
      some (6, 0xFFFF, 8, 3) := by
  decide +kernel

/-- 95 CI2. -/
theorem test_jsr_pop :
    after [0x6020] (poke 0xFFFE [0x40] { ab 0 0 with pc := 0x10, sp := 0xFFFE }) (fun t => (t.read 0xFFFE, t.sp, t.pc)) =
      some (0x11, 0xFFFE, 0x40) := by
  decide +kernel

/-- 95 CI4. -/
theorem test_int_delivers :
    after [0x9100] { ab 7 0 with pc := 2, ia := 6 } (fun t => ((t.read 0xFFFF, t.read 0xFFFE, t.sp), t.pc, t.gen.a, t.queueing, t.cycles)) =
      some ((3, 7, 0xFFFE), 6, 3, true, 4) := by
  decide +kernel

/-- 95 CI5. -/
theorem test_int_queues :
    after [0xA900] { ab 0 0 with ia := 6, queueing := true } (fun t => (t.queue, t.pc, t.pending)) =
      some ([9], 1, []) := by
  decide +kernel

/-- 95 CI6. -/
theorem test_iag :
    after [0x0120] { ab 0 0 with ia := 0x1234 } axc =
      some (0x1234, 0, 1) := by
  decide +kernel

/-- 95 CI7. -/
theorem test_ias :
    after [0x9D40] (ab 0 0) (fun t => (t.ia, t.cycles)) =
      some (6, 1) := by
  decide +kernel

/-- 95 CI8. -/
theorem test_rfi :
    after [0x8560] (poke 0xFFFE [7, 3] { ab 0 0 with pc := 9, sp := 0xFFFE, queueing := true }) (fun t => (t.gen.a, t.pc, t.sp, t.queueing, t.cycles)) =
      some (7, 3, 0, false, 3) := by
  decide +kernel

/-- 95 CI9. -/
theorem test_iaq_1 :
    after [0x8980] (ab 0 0) (fun t => (t.queueing, t.cycles)) =
      some (true, 2) := by
  decide +kernel

/-- 95 CI10, its second step. -/
theorem test_dispatch_before_fetch :
    after [0x8382] (poke 0x20 [0x8382] { ab 0 0 with pc := 1, ia := 0x20, queue := [4] }) (fun t => ((t.pc, t.gen.a, t.queue), t.read 0xFFFF, t.sp, t.queueing, t.cycles)) =
      some ((0x20, 4, []), 1, 0xFFFE, true, 2) := by
  decide +kernel

/-- 95 CI11. -/
theorem test_dispatch_discards :
    after [0x8382] { ab 0 0 with queue := [4] } (fun t => (t.pc, t.queue, t.cycles)) =
      some (0, [], 2) := by
  decide +kernel

/-! ### Reserved opcodes -/

/-- 95 X12. -/
theorem test_reserved_basic_three_words :
    after [0x7FD8, 1, 2] (ab 3 4) (fun t => (t.pc, t.cycles, t.gen == (ab 3 4).gen, t.ex)) =
      some (3, 1, true, 0) := by
  decide +kernel

/-- 40 R155: no operand is resolved. -/
theorem test_reserved_special_no_pop :
    after [0b011000_10011_00000] (ab 0 0) (fun t => (t.pc, t.sp, t.cycles)) =
      some (1, 0, 1) := by
  decide +kernel

/-! ### The bus and the devices -/

/-- The named parameters at their defaults. -/
abbrev defaults : Parameters := Params.defaults

/-- A slot that holds a device. -/
def slot (inst : Nat) (ident : Identity) (d : DeviceState) : Slot :=
  .connected { inst := inst, name := "", ident := ident, state := d }

/-- The local state of the device in slot 0. -/
def device0 (t : State) : Option DeviceState :=
  match t.slots.head? with
  | some (.connected d) => some d.state
  | some .disconnected => none
  | none => none

/-- A blank writable medium. -/
def blankMedium : Medium := { label := "", wp := false, data := [] }

/-- A ready floppy with a blank medium. -/
def readyFloppy : FloppyState := { floppyReset with status := .ready, medium := some blankMedium }

/-- A floppy that reads sector 3 into memory at 0x3000. -/
def busyFloppy : FloppyState :=
  { readyFloppy with
    status := .busy, op := some { kind := .read, sector := 3, addr := 0x3000, track := 0, remaining := 1 } }

/-- 95 HB2. -/
theorem test_hwn_two :
    after [0x0200] { ab 0 0 with slots := [slot 0 defaults.idKeyboard (.keyboard keyboardReset), slot 1 defaults.idClock (.clock clockReset)] } axc =
      some (2, 0, 2) := by
  decide +kernel

/-- 95 HB4. -/
theorem test_hwq_display :
    after [0x8620] { ab 0 0 with slots := [slot 0 defaults.idDisplay (.display displayReset)] } (fun t => ((t.gen.a, t.gen.b, t.gen.c), t.gen.x, t.gen.y, t.cycles)) =
      some ((0xF615, 0x7349, 0x1802), 0x8B36, 0x1C6C, 4) := by
  decide +kernel

/-- 95 HB5. -/
theorem test_hwq_no_slot :
    after [0x9A20] { ab 0x1111 0 with slots := [.disconnected] } axc =
      some (0x1111, 0, 4) := by
  decide +kernel

/-- 95 HB9 and DS2: the block wraps. -/
theorem test_hwi_palette_dump :
    after [0x8640] { ab 5 0xFFF8 with pc := 0x100, slots := [slot 0 defaults.idDisplay (.display displayReset)] } (fun t => (t.read 0xFFF9, t.read 0x0000, t.read 0x0007, t.cycles)) =
      some (0x000A, 0x0555, 0x0FFF, 20) := by
  decide +kernel

/-- 95 HB8. -/
theorem test_hwi_no_slot :
    after [0xA240] (ab 1 2) (fun t => (t.gen.a, t.gen.b, t.pc, t.cycles)) =
      some (1, 2, 1, 4) := by
  decide +kernel

/-- 95 CL1. -/
theorem test_clock_set_period :
    after [0x8640] { ab 0 60 with slots := [slot 0 defaults.idClock (.clock clockReset)] } device0 =
      some (some (.clock { clockReset with enabled := true, period := 60 })) := by
  decide +kernel

/-- 47 R348. -/
theorem test_keyboard_pop :
    after [0x8640] { ab 1 0 with slots := [slot 0 defaults.idKeyboard (.keyboard { keyboardReset with buf := [0x41, 0x42] })] } (fun t => (t.gen.c, device0 t)) =
      some (0x41, some (.keyboard { keyboardReset with buf := [0x42] })) := by
  decide +kernel

/-- 95 FD5. -/
theorem test_floppy_busy :
    after [0x8640] { ab 2 9 with slots := [slot 0 defaults.idFloppy (.floppy busyFloppy)] } (fun t => (t.gen.b, device0 t)) =
      some (0, some (.floppy { busyFloppy with error := .busy })) := by
  decide +kernel

/-- 95 FD4 and FD10. -/
theorem test_floppy_bad_sector :
    after [0x8640] { regs 2 9 0 1440 0 0 0 0 with slots := [slot 0 defaults.idFloppy (.floppy { readyFloppy with msg := 0x42 })], ia := 0x100, queueing := true } (fun t => (t.gen.b, t.queue, device0 t)) =
      some (0, [0x42], some (.floppy { readyFloppy with msg := 0x42, error := .badSector })) := by
  decide +kernel

/-- 95 CL2. -/
theorem test_clock_ticks :
    clockUpdates defaults { clockReset with enabled := true, period := 60, msg := 5 } [1 / 2, 1 / 2, 1 / 4] =
      ({ clockReset with enabled := true, period := 60, msg := 5, ticks := 1, acc := 1 / 4 }, [5]) := by
  decide +kernel

/-- 95 DS8. -/
theorem test_display_blinks : (displayUpdate defaults displayReset (1 / 2)).visible = false := by decide +kernel

/-- 95 DS5 and DS6. -/
theorem test_display_pixel :
    let d : DisplayState := { displayReset with screen := 0x8000, font := 0xA000, palette := 0x9000 }
    let m : Memory := (poke 0x8000 [0x3000] (poke 0x9003 [0x0F00] (poke 0xA000 [0xFF00] (ab 0 0)))).mem
    pixel defaults d m 0 5 = .rgb 15 0 0 ∧ pixel defaults d m 1 5 = .rgb 0 0 0 := by
  decide +kernel

/-- 95 FD9. -/
theorem test_floppy_write_completes :
    let f : FloppyState :=
      { readyFloppy with
        status := .busy, op := some { kind := .write, sector := 3, addr := 0x3000, track := 0, remaining := 1 } }
    let r := floppyUpdate defaults f 1 (poke 0x3000 [7, 8] (ab 0 0)).mem
    r.dev.status = .ready ∧ r.dev.op = none ∧ r.dev.medium.map (fun m => (sectorRead defaults m 3).take 3) = some [7, 8, 0] := by
  decide +kernel

/-- 95 FD8. -/
theorem test_floppy_eject :
    (floppyEject busyFloppy).1 = { floppyReset with error := .eject } := by decide +kernel

/-! ### The host -/

/-- 95 S2. -/
theorem test_loadImage :
    (match State.reset.loadImage [0x83, 0x82, 0x7C, 0x01, 0x12, 0x34] with
      | .next t => [t.read 0, t.read 1, t.read 2]
      | .fault _ => []
      | .refused _ => []) = [0x8382, 0x7C01, 0x1234] := by
  decide +kernel

/-- 95 X15. -/
theorem test_execute_budget :
    (match hostCall .boundary (.execute 4) (poke 0 [0x8382] (ab 0 0)) with
      | .next (t, r) => some (t.pc, t.ex, r)
      | .fault _ => none
      | .refused _ => none) = some (0, 1, .consumed 4) := by
  decide +kernel

/-- 95 HB11, and 46 R301 (D32). -/
theorem test_host_refusals :
    (match hostCall .boundary (.disconnect 2) State.reset with
      | .refused .noSuchHardwareId => true
      | _ => false) = true ∧
    (match hostCall .midInstruction (.connect 0 "" .clock) State.reset with
      | .refused .connectMidInstruction => true
      | _ => false) = true := by
  decide +kernel

/-- withFetchWord places the instruction where the step fetches it, also when a dispatch comes first. -/
theorem test_withFetchWord :
    (match step (State.reset.withFetchWord 32 0x1234_7C01) with
      | .next t => some (t.gen.a, t.pc)
      | _ => none) = some (0x1234, 2) ∧
    (match step (State.withFetchWord { State.reset with ia := 0x40, queue := [9] } 16 0x0021) with
      | .next t => some (t.gen.b, t.pc)
      | _ => none) = some (9, 0x41) := by
  decide +kernel

/-! ## Witnesses: states and operands that meet the hypotheses of the statements -/

/-- The hypothesis of DecodeEncodeRoundTrip, at both ends of the short literals and with two next words. -/
theorem witness_DecodeEncodeRoundTrip :
    Instr.wellFormed (.jsr (.short 0xFFFF)) = true ∧ Instr.wellFormed (.jsr (.short 30)) = true ∧
      Instr.wellFormed (.set (.common (.abs 0x1000)) (.common (.lit 0x20))) = true := by
  decide

/-- The hypothesis of EncodeDecodeRoundTrip. -/
theorem witness_EncodeDecodeRoundTrip :
    decode [0x7FC1, 0x0020, 0x1000, 0xFFFF] = .ok (.set (.common (.abs 0x1000)) (.common (.lit 0x20))) [0xFFFF] := by
  decide

/-- The hypothesis of LengthFollowsFromFirstWord, for lengths 1, 2 and 3 and just enough words. -/
theorem witness_LengthFollowsFromFirstWord :
    wordLength 0x8382 = 1 ∧ wordLength 0x7C01 = 2 ∧ wordLength 0x7FD8 = 3 ∧ wordLength 0x7FD8 ≤ [1, 2].length + 1 := by
  decide

/-- The hypotheses of ShortLiteralOperand at both ends, and both of its cases. -/
theorem witness_ShortLiteralOperand :
    decodeSrc 0x20 0 = .short 0xFFFF ∧ decodeSrc 0x3F 0 = .short 30 ∧ SrcOperand.literal 0xFFFF = .short 0xFFFF ∧
      SrcOperand.literal 30 = .short 30 ∧ SrcOperand.literal 31 = .common (.lit 31) := by
  decide

/-- The hypotheses of SourceOperandForms and DestinationOperandForms at the bounds of their ranges of codes. -/
theorem witness_operandCodes :
    decodeDst 0 9 = .common (.reg .a) ∧ decodeDst 7 9 = .common (.reg .j) ∧ decodeDst 0x17 9 = .common (.idx .j 9) ∧
      decodeDst 0x18 9 = .push ∧ decodeDst 0x19 9 = .common .peek ∧ decodeDst 0x1F 9 = .common (.lit 9) := by
  decide

/-- The hypotheses of LiteralDestinationWritesNothing and of the frames: each list has the instructions it names. -/
theorem witness_instruction_lists :
    Instr.set ∈ plainStores ∧ Instr.add ∈ exStores ∧ Instr.sti ∈ blockStores ∧ Instr.std ∈ blockStores := by
  simp [plainStores, exStores, blockStores]

/-- A machine that refuses DVI of -32768 by -1 (D10) and reads EX signed in SBX (D9). -/
def otherCorners (a b : Word) : State :=
  { ab a b with params := { defaults with dviOverflow := .fault, sbxExSigned := true } }

/-- The hypotheses of DviMdiResults, each clause, and those of LiteralDestinationWritesNothing about DVI. -/
theorem witness_DviMdiResults :
    let o := resolve (.common (.reg .a)) (.common (.reg .b)) (ab 0x8000 0xFFFF)
    o.bv = 0x8000#16 ∧ o.av = 0xFFFF#16 ∧ (ab 0 0).params.dviOverflow = .mathematical ∧
      dviRefused (otherCorners 0x8000 0xFFFF) o.bv o.av ∧ ¬ dviRefused (otherCorners 0 0) 0x8000 0xFFFE := by
  refine ⟨by decide +kernel, by decide +kernel, rfl, ⟨rfl, by decide +kernel, by decide +kernel⟩, fun h => ?_⟩
  exact absurd h.2.2 (by decide)

/-- 41 R196 and R200 under the other values of their parameters: the DVI is refused, and SBX reads EX = 0xFFFF as -1. -/
theorem test_other_corners :
    (match exec (.dvi (.common (.reg .a)) (.common (.reg .b))) (otherCorners 0x8000 0xFFFF) with
      | .refused .dviOverflow => true
      | _ => false) = true ∧
    after [0b000001_00000_11011] { otherCorners 1 1 with ex := 0xFFFF } (fun t => (t.gen.a, t.ex)) =
      some (0xFFFF, 0xFFFF) := by
  decide +kernel

/-- The hypotheses of LongShifts, each clause at its boundary. -/
theorem witness_LongShifts :
    (16#16).toNat = 16 ∧ 32 ≤ (32#16).toNat ∧ (0x8000#16).toInt < 0 ∧ 0 ≤ (0x7FFF#16).toInt := by decide

/-- Both values of every test of the eight conditionals, at the values where signed and unsigned reading differ. -/
theorem witness_conditionalTests :
    conditionalTests.map (fun p => (p.2 0x8000 1, p.2 1 0x8000, p.2 1 1)) =
      [(false, false, true), (true, true, false), (false, false, true), (true, true, false), (true, false, false),
        (false, true, false), (false, true, false), (true, false, false)] := by
  decide

/-- The hypotheses of ConditionalResults' first case and of ConditionalFrame. -/
theorem witness_ConditionalResults_true :
    (Instr.ifc, fun bv av : Word => decide (bv &&& av = 0#16)) ∈ conditionalTests ∧
      after [0x0411] (ab 1 2) State.pc = some 1 := by
  refine ⟨by simp [conditionalTests], by decide +kernel⟩

/-- The hypotheses of ConditionalResults' second case: a skip of one instruction, and one of a chain of two. -/
theorem witness_ConditionalResults_false :
    (resolve (.common (.reg .a)) (.short 1) (ab 0 0)).bv ≠ (resolve (.common (.reg .a)) (.short 1) (ab 0 0)).av ∧
      SkipsTo [] 0 1 1 ∧ SkipsTo [(0, 0x8814)] 0 2 2 := by
  have h : ∀ n, isConditionalWord (Memory.read [(0, 0x8814)] 1) = false → SkipsTo [(0, 0x8814)] 1 n 1 → SkipsTo [(0, 0x8814)] 0 n 2 :=
    fun n _ hr => SkipsTo.more (pc := 0) (by decide) hr
  exact ⟨by decide, SkipsTo.last (pc := 0) (by decide), h 2 (by decide) (SkipsTo.last (pc := 1) (by decide))⟩

/-- Memory in which every word is `IFE A, 1` (95 IF12). -/
def allConditional : State := { ab 0 0 with mem := Memory.ofWords (List.replicate 65536 0x8812) }

theorem allConditional_read (addr : Word) : allConditional.mem.read addr = 0x8812 := by
  show Memory.lookup addr.toNat (Memory.ofWordsFrom 0 (List.replicate 65536 0x8812)) = 0x8812
  rw [Memory.lookup_ofWordsFrom 0 _ (by rw [List.length_replicate]), if_pos (Nat.zero_le _), List.getD_eq_getElem?_getD,
    List.getElem?_replicate, if_pos (by have := addr.isLt; omega)]
  rfl

theorem allConditional_isConditional (addr : Word) : isConditionalWord (allConditional.mem.read addr) = true := by
  rw [allConditional_read]
  decide

theorem allConditional_noSkip (pc q : Word) (k : Nat) : ¬ SkipsTo allConditional.mem pc q k := by
  intro hs
  induction hs with
  | last h => rw [allConditional_isConditional] at h; exact absurd h (by decide)
  | more _ _ ih => exact ih

/-- The hypotheses of EndlessSkipIsStuck and both of its cases: a memory with nothing but conditionals (95 IF12), in which no
skip ends, and one in which the skip ends. -/
theorem witness_EndlessSkipIsStuck :
    (∀ addr, isConditionalWord (allConditional.mem.read addr) = true) ∧
      (resolve (.common (.reg .a)) (.short 1) allConditional).bv ≠ (resolve (.common (.reg .a)) (.short 1) allConditional).av ∧
      (∀ (q : Word) (k : Nat), ¬ SkipsTo allConditional.mem 0 q k) ∧ SkipsTo (ab 0 0).mem 0 1 1 := by
  exact ⟨allConditional_isConditional, (show (0 : Word) ≠ 1 by decide), allConditional_noSkip 0,
    SkipsTo.last (pc := 0) (by decide)⟩

/-- The hypothesis of JsrResult, DeliveryEntryState, ReturnUndoesDelivery, DisplayDumps, LoadImagePacksBigEndian and
SnapshotRoundTrip: a memory in canonical form with words in it. -/
theorem witness_memory_wf : (poke 0xFFFF [7, 8] (ab 0 0)).mem.wf = true ∧ Memory.wf [] = true := by decide +kernel

/-- The hypotheses of IntResult and IntFrame, each clause. -/
theorem witness_IntResult :
    (ab 0 0).pending = [] ∧ (ab 0 0).powered = true ∧ (ab 0 0).ia = 0#16 ∧
      State.ia { ab 0 0 with ia := 6 } ≠ 0#16 ∧ State.queueing { ab 0 0 with ia := 6, queueing := true } = true ∧
      State.queueing { ab 0 0 with ia := 6 } = false ∧
      (after [0xA900] { ab 0 0 with ia := 6, queueing := true } State.pending = some []) := by
  decide +kernel

/-- A bus with a device in slot 0 and a placeholder in slot 1. -/
def bus : State := { ab 5 0x1000 with slots := [slot 0 defaults.idDisplay (.display displayReset), .disconnected] }

/-- The hypotheses of HwnHwqResults and HwiResult, each clause: a device, a placeholder, and the first id without a slot. -/
theorem witness_HwnHwqResults :
    bus.slots[(resolveA (.short 0) bus).av.toNat]? = some (slot 0 defaults.idDisplay (.display displayReset)) ∧
      bus.slots[(resolveA (.short 1) bus).av.toNat]? = some .disconnected ∧
      bus.slots.length ≤ (resolveA (.short 2) bus).av.toNat ∧ bus.pending = [] := by
  decide +kernel

/-- The hypotheses of ReferenceHandlersFrame and DisplayDumps: each of the four devices, and both dumps. -/
theorem witness_ReferenceHandlersFrame :
    (ab 4 0x2000).params.wf = true ∧ (∀ f, DeviceState.display displayReset ≠ .foreign f) ∧ (∀ f, DeviceState.clock clockReset ≠ .floppy f) ∧
      (ab 4 0x2000).gen.a = 4#16 ∧ (ab 5 0x2000).gen.a = 5#16 := by
  refine ⟨by decide +kernel, ?_, ?_, rfl, rfl⟩ <;> intro f h <;> cases h

/-- The hypothesis of ReservedNoOp, for both kinds of opcode, and instructions that do not meet it. -/
theorem witness_ReservedNoOp :
    reservedOpcode (Instr.reservedBasic1D .push .pop).opcode = true ∧
      reservedOpcode (Instr.reservedSpecial1F .pop).opcode = true ∧ reservedOpcode (Instr.adx .push .pop).opcode = false ∧
      reservedOpcode (Instr.hwi .pop).opcode = false := by
  decide

/-- The hypotheses of TriggerResult, each clause. -/
theorem witness_TriggerResult :
    State.powered { ab 0 0 with powered := false } = false ∧ (ab 0 0).ia = 0#16 ∧
      (let s := { ab 0 0 with ia := 6, queueing := true }
       s.powered = true ∧ s.ia ≠ 0#16 ∧ s.queueing = true) ∧
      (let s := { ab 0 0 with ia := 6 }
       s.powered = true ∧ s.ia ≠ 0#16 ∧ s.queueing = false) := by
  decide

/-- The hypotheses of QueueOverflowSetsOnFire, and both of its cases at the bound: 256 messages and 257 (95 S7). -/
theorem witness_QueueOverflowSetsOnFire :
    let s := { ab 0 0 with ia := 0x100, queueing := true }
    (s.powered = true ∧ s.ia ≠ 0#16 ∧ s.queueing = true ∧ s.queue = [] ∧ s.onFire = false) ∧
      (s.triggerAll (List.replicate 256 7)).onFire = false ∧ (s.triggerAll (List.replicate 257 7)).onFire = true := by
  decide +kernel

/-- The hypotheses of BoundaryDispatch, each clause. -/
theorem witness_BoundaryDispatch :
    (ab 0 0).queue = [] ∧ State.queueing { ab 0 0 with queueing := true } = true ∧
      (let s := { ab 0 0 with queue := [4] }
       s.queueing = false ∧ s.queue = 4 :: [] ∧ s.ia = 0#16) ∧
      (let s := { ab 0 0 with queue := [4], ia := 0x20 }
       s.queueing = false ∧ s.queue = 4 :: [] ∧ s.ia ≠ 0#16) := by
  decide

/-- The hypotheses of StepRunsDecodedInstruction, with a dispatch that delivers and one that does nothing, and an instruction
that runs. -/
theorem witness_StepRunsDecodedInstruction :
    (let s := poke 0x20 [0x8382] { ab 0 0 with ia := 0x20, queue := [4] }
     let d := s.dispatch
     s.powered = true ∧ d.pc = 0x20 ∧ decode [d.read d.pc, d.read (d.pc + 1), d.read (d.pc + 2)] = .ok .halt [0, 0]) ∧
      after [0x8382] (ab 0 0) State.pc = some 0 := by
  decide +kernel

/-- The second clause of StepRunsDecodedInstruction and of OnlyEndlessSkipStops: an instruction that is stuck (95 IF12). -/
theorem witness_stuck : exec (.ife (.common (.reg .a)) (.short 1)) (allConditional.setPc 1) = .fault .endlessSkip := by
  have hs : State.skip (allConditional.setPc 1) = none := by
    cases h : State.skip (allConditional.setPc 1) with
    | none => rfl
    | some r => exact absurd ((State.skip_eq_some _ r.1 r.2).mp h) (allConditional_noSkip _ _ _)
  show conditional testIfe (.common (.reg .a)) (.short 1) (allConditional.setPc 1) = .fault .endlessSkip
  have hr : (resolve (.common (.reg .a)) (.short 1) (allConditional.setPc 1)).st = allConditional.setPc 1 := by
    show (allConditional.setPc 1).advancePc 0 = _
    simp [State.advancePc, State.setPc]
  simp only [conditional]
  rw [if_neg (by exact (show ¬ testIfe 0 1 = true by decide)), hr, hs]

/-- The hypotheses of EveryStepCosts, StepKeepsInvariant, OnFireIsSticky, StepsKeepBusAndPower and the frames: a state that meets
the invariant, with on_fire set, a device on the bus and a queue, whose step has a next state. -/
theorem witness_StepKeepsInvariant :
    let s : State := { poke 0x100 [0x8382] bus with pc := 0x100, onFire := true, queue := [4] }
    s.params.wf = true ∧ s.mem.wf = true ∧ s.pending = [] ∧ s.slots.length ≤ Params.maxDevices ∧ s.slots.all (slotWf s.params) = true ∧
      (s.slots.filterMap Slot.inst?).Nodup ∧ s.powered = true ∧ s.onFire = true ∧
      (match step s with
        | .next t => t.onFire && t.slots == s.slots
        | _ => false) = true := by
  decide +kernel

/-- The hypothesis of PlainStoreFrame, ExStoreFrame, StiStdFrame and SpecialFrames: each instruction named there has a next
state (also the tests above). -/
theorem witness_frames :
    after [0xFC01] (ab 0 0) State.pc = some 1 ∧ after [0x0402] (ab 1 2) State.pc = some 1 ∧
      after [0x3DDE] (ab 0 0) State.pc = some 1 ∧ after [0xA420] (ab 0 0) State.pc = some 8 ∧
      after [0x0120] (ab 0 0) State.pc = some 1 ∧ after [0x9D40] (ab 0 0) State.pc = some 1 ∧
      after [0x8560] (ab 0 0) State.sp = some 2 ∧ after [0x8980] (ab 0 0) State.pc = some 1 ∧
      after [0x0200] (ab 0 0) State.pc = some 1 ∧ after [0x8620] bus State.pc = some 1 := by
  decide +kernel

/-- The hypotheses of ClockTicksExactly: three halves of a period of two seconds and one more half (47 R336). -/
theorem witness_ClockTicksExactly :
    let d : ClockState := { clockReset with enabled := true, period := 120 }
    let dts : List Rat := [1, 1 / 2, 1 / 2]
    d.enabled = true ∧ d.period ≠ 0#16 ∧ d.acc = 0 ∧ (∀ dt ∈ dts, 0 ≤ dt) ∧
      dts.sum = ((1 : Nat) : Rat) * ((d.period.toNat : Rat) / defaults.clockBaseHz) ∧ defaults.wf = true := by
  decide +kernel

/-- The hypotheses of DeviceSelectors, each clause. -/
theorem witness_DeviceSelectors :
    (ab 0 0).gen.a = 0#16 ∧ (ab 1 0).gen.a = 1#16 ∧ (ab 2 0).gen.a = 2#16 ∧ (ab 3 0).gen.a = 3#16 ∧ keyboardReset.buf = [] ∧
      (keyDown keyboardReset 0x41).1.buf = 0x41 :: [] := by
  decide

/-- The hypotheses of KeyboardKeepsOrder, each clause (95 S9). -/
theorem witness_KeyboardKeepsOrder :
    keyboardReset.buf = [] ∧ (ab 1 0).gen.a = 1#16 ∧ (ab 2 0x62).gen.a = 2#16 ∧
      (keyDowns keyboardReset [0x61, 0x62]).down = [0x61, 0x62] ∧
      keyPops (keyDowns keyboardReset [0x61, 0x62]) 3 = [0x61, 0x62, 0] := by
  decide +kernel

/-- The hypotheses of FloppyReadCopiesOneSector, each clause: a busy controller; one without a medium; the first sector off the
disk; the last sector on it, with the delay, and a memory whose buffer is partly transferred (95 FD4, FD5, FD7). -/
theorem witness_FloppyReadCopiesOneSector :
    ((ab 2 0).params.wf = true ∧ (ab 2 0).gen.a = 2#16 ∧ floppyWf defaults busyFloppy = true ∧ busyFloppy.status = .busy) ∧
      (floppyWf defaults floppyReset = true ∧ floppyReset.medium = none) ∧
      (floppyWf defaults readyFloppy = true ∧ readyFloppy.op = none ∧ readyFloppy.medium = some blankMedium ∧
        defaults.floppyTracks * defaults.floppySectorsPerTrack ≤ (regs 2 0 0 1440 0x3000 0 0 0).gen.x.toNat ∧
        (regs 2 0 0 1439 0x3000 0 0 0).gen.x.toNat < defaults.floppyTracks * defaults.floppySectorsPerTrack ∧
        floppyDelay defaults readyFloppy (1439 / 18) = 237 / 1250 + 128 / 7675 ∧ defaults.floppySectorWords ≤ 65536) ∧
      (let s := poke 0x3000 [7, 8] (ab 2 0)
       let m := (poke 0x3000 [0, 8] (ab 2 0)).mem
       m.wf = true ∧ ∀ i < 4, m.read (0x3000 + BitVec.ofNat 16 i) = s.read (0x3000 + BitVec.ofNat 16 i) ∨
        m.read (0x3000 + BitVec.ofNat 16 i) = (sectorRead defaults blankMedium 1439).getD i 0#16) := by
  decide +kernel

theorem State.dispatch_of_empty {s : State} (h : s.queue = []) : s.dispatch = s := by
  simp only [State.dispatch, h]

/-- Execute is stuck where its first step is. -/
theorem execute_stuck {s : State} (hp : s.powered = true) (h : cpuStep s = .fault .endlessSkip) :
    s.execute 1 = .fault .endlessSkip := by
  simp only [State.execute, hp, if_true, executeLoop, Nat.lt_add_one, h]

/-- A step of the memory with nothing but conditionals is stuck (95 IF12). -/
theorem allConditional_stuck : cpuStep allConditional = .fault .endlessSkip := by
  have hi : allConditional.fetch = .ife (.common (.reg .a)) (.short 1) := by
    simp only [State.fetch, State.read, allConditional_read]
    decide
  have hd : allConditional.dispatch = allConditional := State.dispatch_of_empty rfl
  have hp : allConditional.advancePc 1 = allConditional.setPc 1 := by
    simp only [State.advancePc, State.setPc, show allConditional.pc = 0 from rfl]
    rfl
  have key : ∀ s d : State, s.dispatch = d → cpuStep s = finish (exec d.fetch (d.advancePc 1)) := by
    rintro s _ rfl
    rfl
  rw [key _ _ hd, hi, hp, witness_stuck]
  rfl

/-- The hypotheses of ExecuteConsumesBudget, each clause, with an Execute that completes and one that is stuck. -/
theorem witness_ExecuteConsumesBudget :
    State.powered { ab 0 0 with powered := false } = false ∧ (ab 0 0).powered = true ∧
      (match State.execute (poke 0 [0x0406] (ab 7 2)) 1 with
        | .next t => some t.cycles
        | _ => none) = some 3 := by
  decide +kernel

theorem witness_ExecuteConsumesBudget_stuck : State.execute allConditional 1 = .fault .endlessSkip :=
  execute_stuck rfl allConditional_stuck

/-- The hypotheses of LoadImagePacksBigEndian, each clause at its bound. -/
theorem witness_LoadImagePacksBigEndian :
    ([0x83] : List Byte).length % 2 ≠ 0 ∧ (List.replicate 131074 (0 : Byte)).length % 2 = 0 ∧
      131072 < (List.replicate 131074 (0 : Byte)).length ∧ (List.replicate 131072 (0 : Byte)).length % 2 = 0 ∧
      (List.replicate 131072 (0 : Byte)).length ≤ 131072 := by
  simp only [List.length_replicate]
  decide

/-- A record as a list of numbers; two records with the same numbers are the same. -/
def recordNumbers (r : Snapshot) : List Nat × List Nat × List Nat :=
  ([r.magic, r.version, r.regs.gen.a.toNat, r.regs.gen.b.toNat, r.regs.gen.c.toNat, r.regs.gen.x.toNat, r.regs.gen.y.toNat,
      r.regs.gen.z.toNat, r.regs.gen.i.toNat, r.regs.gen.j.toNat, r.regs.pc.toNat, r.regs.sp.toNat, r.regs.ex.toNat,
      r.regs.ia.toNat, r.queueing.toNat, r.onFire.toNat, r.queueLength],
    r.memory.map BitVec.toNat, r.queue.map BitVec.toNat)

theorem recordNumbers_injective : Function.Injective recordNumbers := by
  have hw : Function.Injective (BitVec.toNat (w := 16)) := fun _ _ h => BitVec.eq_of_toNat_eq h
  have hb : Function.Injective Bool.toNat := by decide
  rintro ⟨m, v, ⟨⟨a, b, c, x, y, z, i, j⟩, pc, sp, ex, ia⟩, mem, q, f, l, qs⟩
    ⟨m', v', ⟨⟨a', b', c', x', y', z', i', j'⟩, pc', sp', ex', ia'⟩, mem', q', f', l', qs'⟩ h
  simp only [recordNumbers, Prod.mk.injEq, List.cons.injEq, and_true] at h
  obtain ⟨⟨rfl, rfl, h1, h2, h3, h4, h5, h6, h7, h8, h9, h10, h11, h12, h13, h14, rfl⟩, h15, h16⟩ := h
  rw [hw h1, hw h2, hw h3, hw h4, hw h5, hw h6, hw h7, hw h8, hw h9, hw h10, hw h11, hw h12, hb h13, hb h14,
    List.map_injective_iff.mpr hw h15, List.map_injective_iff.mpr hw h16]

/-- SNAPSHOT_CODEC (70 R504) exists, with bytes that do not decode and are the encoding of no record; and records that Load
does not accept exist. -/
theorem witness_SnapshotRoundTrip :
    (∃ (c : SnapshotCodec) (bytes : List Byte), c.decode bytes = none ∧ ∀ r, c.encode r ≠ bytes) ∧
      (∃ r : Snapshot, r.memory.length ≠ 65536 ∧ r.queue.length ≠ r.queueLength) ∧
      (State.reset.load none).2 = .loadError := by
  have hf : Function.Injective fun r : Snapshot => List.replicate (Encodable.encode (recordNumbers r)) (0 : Byte) := by
    intro r r' h
    have := congrArg List.length h
    simp only [List.length_replicate] at this
    exact recordNumbers_injective (Encodable.encode_injective this)
  have hn : ∀ r : Snapshot, List.replicate (Encodable.encode (recordNumbers r)) (0 : Byte) ≠ [1] := by
    intro r hr
    have h1 : (1 : Byte) ∈ List.replicate (Encodable.encode (recordNumbers r)) (0 : Byte) := by rw [hr]; simp
    rw [List.mem_replicate] at h1
    exact absurd h1.2 (by decide)
  refine ⟨⟨⟨_, Function.partialInv fun r : Snapshot => List.replicate (Encodable.encode (recordNumbers r)) (0 : Byte),
    fun r => Function.partialInv_left hf r⟩, [1], ?_, hn⟩, ⟨⟨0, 0, default, [], false, false, 1, []⟩, by decide, by decide⟩, rfl⟩
  show Function.partialInv _ [1] = none
  by_contra h
  obtain ⟨r, hr⟩ := Option.ne_none_iff_exists'.mp h
  exact hn r ((hf.isPartialInv r _).mp hr)

/-- 70 R507: a Load that fails answers LoadError and leaves the state as it was. -/
theorem test_load_error :
    (match hostCall .boundary (.load none) (ab 7 8) with
      | .next (t, .load .loadError) => decide (t = ab 7 8)
      | _ => false) = true := by
  decide +kernel

/-- The hypotheses of PowerOffCancelsCompletions and HostActionsKeepInvariant: a bus with a pending completion, in a state that
meets the invariant, and host actions that answer. -/
theorem witness_HostActionsKeepInvariant :
    let s : State := { ab 0 0 with slots := [slot 0 defaults.idFloppy (.floppy busyFloppy)] }
    s.params.wf = true ∧ s.mem.wf = true ∧ s.pending = [] ∧ s.slots.length ≤ Params.maxDevices ∧ s.slots.all (slotWf s.params) = true ∧
      (s.slots.filterMap Slot.inst?).Nodup ∧ s.slots.all (fun x => !x.completing) = false ∧
      (match hostCall .boundary .powerOff s with
        | .next (t, .done) => t.slots.all (fun x => !x.completing)
        | _ => false) = true ∧
      (match hostCall .boundary (.update 0 1) s with
        | .next (t, .done) => t.slots.all (fun x => !x.completing)
        | _ => false) = true := by
  decide +kernel


end Sys2Proof.Tests
end

section
/-! PROOFS. Encoding: the length of an instruction is the one its first word announces (30_encoding.md R103). -/

namespace Sys2Proof

/-- NW as the set of codes that R103 lists. -/
theorem codeReadsNextWord_iff_mem (v : Nat) :
    codeReadsNextWord v = true ↔ v ∈ [0x10, 0x11, 0x12, 0x13, 0x14, 0x15, 0x16, 0x17, 0x1A, 0x1E, 0x1F] := by
  simp only [codeReadsNextWord, Bool.or_eq_true, Bool.and_eq_true, decide_eq_true_eq, beq_iff_eq, List.mem_cons,
    List.not_mem_nil, or_false]
  omega

theorem fieldA_eq_div (w : Word) : fieldA w = w.toNat / 1024 := by
  simp only [fieldA, bits]
  omega

theorem fieldB_eq_mod (w : Word) : fieldB w = w.toNat / 32 % 32 := by
  simp [fieldB, bits]

theorem fieldO_eq_mod (w : Word) : fieldO w = w.toNat % 32 := by
  simp [fieldO, bits]

theorem Reg.index_ofIndex {k : Nat} (h : k < 8) : (Reg.ofIndex k).index = k := by
  interval_cases k <;> rfl

/-- The encoder's code of a decoded shared form is the code it was decoded from (R106). -/
theorem Operand.code_decodeOperand {c : Nat} (h : c < 0x20) (hc : c ≠ 0x18) (n : Word) : (decodeOperand c n).code = c := by
  unfold decodeOperand
  split_ifs with hreg hind hidx
  · exact Reg.index_ofIndex hreg
  · have : (Reg.ofIndex (c - 0x08)).index = c - 0x08 := Reg.index_ofIndex (by omega)
    simp only [Operand.code]
    omega
  · have : (Reg.ofIndex (c - 0x10)).index = c - 0x10 := Reg.index_ofIndex (by omega)
    simp only [Operand.code]
    omega
  · have : 0x19 ≤ c := by omega
    interval_cases c <;> rfl

/-- A shared form has one next word when NW holds of its code, and none otherwise (R103, R106). -/
theorem Operand.length_nextWords (o : Operand) : o.nextWords.length = if codeReadsNextWord o.code then 1 else 0 := by
  have hle := o.length_nextWords_le
  rw [o.codeReadsNextWord_code]
  cases hw : o.nextWords with
  | nil => rfl
  | cons n ns =>
    rw [hw] at hle
    exact Nat.le_antisymm hle (Nat.succ_pos _)

theorem Operand.length_nextWords_decodeOperand {c : Nat} (h : c < 0x20) (hc : c ≠ 0x18) (n : Word) :
    (decodeOperand c n).nextWords.length = if codeReadsNextWord c then 1 else 0 := by
  rw [Operand.length_nextWords, Operand.code_decodeOperand h hc]

/-- No short literal has a next word (R107). -/
theorem codeReadsNextWord_short {c : Nat} (h : 0x20 ≤ c) : codeReadsNextWord c = false := by
  rw [Bool.eq_false_iff, ne_eq, codeReadsNextWord_iff_mem]
  simp only [List.mem_cons, List.not_mem_nil, or_false]
  omega

/-- A decoded a operand has the next word that its code announces (R103). -/
theorem SrcOperand.length_nextWords_decodeSrc (c : Nat) (n : Word) :
    (decodeSrc c n).nextWords.length = if codeReadsNextWord c then 1 else 0 := by
  unfold decodeSrc
  split
  next hpop =>
    subst hpop
    rfl
  next hpop =>
    split
    next hcommon => exact Operand.length_nextWords_decodeOperand hcommon hpop n
    next hcommon =>
      rw [codeReadsNextWord_short (Nat.not_lt.mp hcommon)]
      rfl

/-- A decoded b operand has the next word that its code announces (R103). -/
theorem DstOperand.length_nextWords_decodeDst {c : Nat} (h : c < 0x20) (n : Word) :
    (decodeDst c n).nextWords.length = if codeReadsNextWord c then 1 else 0 := by
  unfold decodeDst
  split
  next hpush =>
    subst hpush
    rfl
  next hpush => exact Operand.length_nextWords_decodeOperand h hpush n

/-- Every basic opcode, reserved or not, keeps both operands (R111, R113). -/
theorem decodeBasic_operands (o : Nat) (b : DstOperand) (a : SrcOperand) :
    (decodeBasic o b a).src = a ∧ (decodeBasic o b a).dst = some b := by
  unfold decodeBasic
  split <;> exact ⟨rfl, rfl⟩

/-- Every special opcode, reserved or not, keeps its one operand (R112, R114). -/
theorem decodeSpecial_operands (so : Nat) (a : SrcOperand) :
    (decodeSpecial so a).src = a ∧ (decodeSpecial so a).dst = none := by
  unfold decodeSpecial
  split <;> exact ⟨rfl, rfl⟩

theorem length_decodeBasic (o : Nat) (b : DstOperand) (a : SrcOperand) :
    (decodeBasic o b a).length = 1 + a.nextWords.length + b.nextWords.length := by
  obtain ⟨hsrc, hdst⟩ := decodeBasic_operands o b a
  simp only [Instr.length, Instr.dstNextWords, hsrc, hdst]

theorem length_decodeSpecial (so : Nat) (a : SrcOperand) : (decodeSpecial so a).length = 1 + a.nextWords.length := by
  obtain ⟨hsrc, hdst⟩ := decodeSpecial_operands so a
  simp only [Instr.length, Instr.dstNextWords, hsrc, hdst, List.length_nil, Nat.add_zero]

/-- The length of a decoded instruction is that of its first word, whatever the next words (R103). -/
theorem length_decodeInstr (w n1 n2 : Word) : (decodeInstr w n1 n2).length = wordLength w := by
  obtain ⟨-, hB, -⟩ := field_lt w
  by_cases ho : fieldO w = 0
  · simp [decodeInstr, wordLength, ho, length_decodeSpecial, SrcOperand.length_nextWords_decodeSrc]
  · simp [decodeInstr, wordLength, ho, length_decodeBasic, SrcOperand.length_nextWords_decodeSrc,
      DstOperand.length_nextWords_decodeDst hB]

/-- A list with the words its first word announces decodes, whatever the opcode (R103, R110). -/
theorem decode_cons_of_wordLength_le {w : Word} {rest : List Word} (h : wordLength w ≤ rest.length + 1) :
    decode (w :: rest) =
      .ok (decodeInstr w (rest.getD 0 0) (rest.getD 1 0)) (rest.drop (wordLength w - 1)) :=
  if_neg (Nat.not_lt.mpr h)

/-- Settles O3: the formula is `wordLength` with the fields as quotients and remainders; the decoded length agrees since each
operand code announces its own next word and every opcode keeps the operands it is given. -/
theorem lengthFollowsFromFirstWord : Obligations.LengthFollowsFromFirstWord := by
  refine fun w rest => ⟨?_, fun h => ⟨_, decode_cons_of_wordLength_le h, length_decodeInstr w _ _⟩⟩
  simp only [wordLength, Bool.and_eq_true, decide_eq_true_eq, codeReadsNextWord_iff_mem, fieldA_eq_div, fieldB_eq_mod,
    fieldO_eq_mod]

end Sys2Proof
end

section
/-! PROOFS. Encoding: the short literals and their long form (30_encoding.md R107). -/

namespace Sys2Proof

/-- The codes from 0x20 on are the short literals, -1 first (R107). -/
theorem decodeSrc_short {c : Nat} (h : 0x20 ≤ c) (n : Word) :
    decodeSrc c n = .short (BitVec.ofInt 16 ((c : Int) - 0x21)) := by
  have hpop : c ≠ 0x18 := by omega
  have hcommon : ¬ c < 0x20 := by omega
  have hv : BitVec.ofInt 16 ((c : Int) - 0x21) = BitVec.ofNat 16 c - 0x21 := Machine.trunc16_sub c 0x21
  simp only [decodeSrc, hpop, hcommon, if_false, hv]

/-- The test by which the assembler picks the short form: the values -1 and 0 .. 30 (R107). -/
theorem toNat_succ_lt_iff (v : Word) : (v + 1).toNat < 32 ↔ v = 0xFFFF#16 ∨ v.toNat ≤ 30 := by
  bv_omega

/-- A short literal is its value, at no cost, and leaves the state alone (R107). -/
theorem resolveA_short (v : Word) (s : Machine.State) :
    Machine.resolveA (.short v) s = { aloc := .lit v, av := v, cost := 0, st := s } := rfl

/-- The long form is its next word, one cycle and one word later (R107, R117). -/
theorem resolveA_lit (v : Word) (s : Machine.State) :
    Machine.resolveA (.common (.lit v)) s = { aloc := .lit v, av := v, cost := 1, st := s.setPc (s.pc + 1) } := rfl

/-- Settles O5, one lemma for each of its clauses. -/
theorem shortLiteralOperand : Obligations.ShortLiteralOperand := by
  refine ⟨fun c n h _ => decodeSrc_short h n, fun v s => ?_, fun v s => ?_, fun v => ?_⟩
  · simp only [resolveA_short, and_self]
  · simp only [resolveA_lit, and_self]
  · simp only [SrcOperand.literal, toNat_succ_lt_iff]

end Sys2Proof
end

section
/-! PROOFS. Execution: the form each operand code stands for, and what resolving a form gives (40_execution.md R144 to R147). -/

namespace Sys2Proof

/-! ## Operand codes of the shared forms (R105, R106) -/

/-- A code that is neither a stack form nor a short literal decodes alike in the a and in the b field. -/
theorem decodeSrc_common {c : Nat} (h : c < 0x20) (hc : c ≠ 0x18) (n : Word) :
    decodeSrc c n = .common (decodeOperand c n) := by
  rw [decodeSrc, if_neg hc, if_pos h]

theorem decodeDst_push (n : Word) : decodeDst 0x18 n = .push := if_pos rfl

theorem decodeDst_common {c : Nat} (hc : c ≠ 0x18) (n : Word) : decodeDst c n = .common (decodeOperand c n) :=
  if_neg hc

theorem decodeSrc_reg {c : Nat} (h : c < 8) (n : Word) : decodeSrc c n = .common (.reg (Reg.ofIndex c)) := by
  rw [decodeSrc_common (by omega) (by omega)]
  unfold decodeOperand
  rw [if_pos h]

theorem decodeSrc_ind {c : Nat} (h : c < 8) (n : Word) : decodeSrc (0x08 + c) n = .common (.ind (Reg.ofIndex c)) := by
  rw [decodeSrc_common (by omega) (by omega)]
  unfold decodeOperand
  rw [if_neg (by omega), if_pos (by omega), Nat.add_sub_cancel_left]

theorem decodeSrc_idx {c : Nat} (h : c < 8) (n : Word) : decodeSrc (0x10 + c) n = .common (.idx (Reg.ofIndex c) n) := by
  rw [decodeSrc_common (by omega) (by omega)]
  unfold decodeOperand
  rw [if_neg (by omega), if_neg (by omega), if_pos (by omega), Nat.add_sub_cancel_left]

namespace Machine

/-! ## Resolving an operand, by its form (R145 to R147) -/

theorem State.advancePc_zero (s : State) : s.advancePc 0 = s := by
  simp only [State.advancePc, BitVec.add_zero]

/-- A shared form without a next word is read in the state it is resolved in, which it leaves alone (R117, R146). -/
theorem resolveA_of_nextWords_nil {o : Operand} (h : o.nextWords = []) (s : State) :
    resolveA (.common o) s = { aloc := operandLoc s o, av := s.readLoc (operandLoc s o), cost := 0, st := s } := by
  have hst : srcAfter s (.common o) = s := by
    rw [srcAfter, h]
    exact s.advancePc_zero
  simp only [resolveA, hst, srcLoc, SrcOperand.nextWords, h, List.length_nil]

/-- A shared form with a next word takes one cycle and moves PC past that word; its location is not PC, so its value is the
one before (R117, R146). -/
theorem resolveA_of_nextWords_cons {o : Operand} {n : Word} (h : o.nextWords = [n]) (s : State) :
    resolveA (.common o) s =
      { aloc := operandLoc s o, av := s.readLoc (operandLoc s o), cost := 1, st := s.setPc (s.pc + 1) } := by
  cases o with
  | idx r n => rfl
  | pick n => rfl
  | abs n => rfl
  | lit n => rfl
  | _ => cases h

/-- POP reads the cell at the old SP and increments SP (R146). -/
theorem resolveA_pop (s : State) :
    resolveA .pop s = { aloc := .mem s.sp, av := s.mem.read s.sp, cost := 0, st := s.setSp (s.sp + 1) } := rfl

/-- PUSH, in the state that a leaves, is the cell below SP, and SP moves to it; a leaves memory alone (R144, R147). -/
theorem resolve_push (a : SrcOperand) (s : State) :
    resolve .push a s =
      let ra := resolveA a s
      { av := ra.av, bloc := .mem (ra.st.sp - 1), bv := s.mem.read (ra.st.sp - 1), cost := ra.cost,
        st := ra.st.setSp (ra.st.sp - 1) } := by
  rw [← srcAfter_mem s a]
  rfl

/-- A shared form as b is resolved as it would be as a, in the state that a leaves (R144, R147). -/
theorem resolve_common (o : Operand) (a : SrcOperand) (s : State) :
    resolve (.common o) a s =
      let ra := resolveA a s
      let rb := resolveA (.common o) ra.st
      { av := ra.av, bloc := rb.aloc, bv := rb.av, cost := ra.cost + rb.cost, st := rb.st } := rfl

end Machine

open Machine

/-- Settles O6: the code picks the form, and each form is resolved by whether it reads a next word. -/
theorem sourceOperandForms : Obligations.SourceOperandForms := by
  refine fun s n => ⟨fun c hc => ⟨?reg, ?ind, ?idx⟩, resolveA_pop s, resolveA_of_nextWords_nil (o := .peek) rfl s,
    resolveA_of_nextWords_cons (o := .pick n) rfl s, resolveA_of_nextWords_nil (o := .sp) rfl s,
    resolveA_of_nextWords_nil (o := .pc) rfl s, resolveA_of_nextWords_nil (o := .ex) rfl s,
    resolveA_of_nextWords_cons (o := .abs n) rfl s, resolveA_lit n s, fun c hc _ => ?short⟩
  case reg =>
    rw [decodeSrc_reg hc]
    exact resolveA_of_nextWords_nil rfl s
  case ind =>
    rw [decodeSrc_ind hc]
    exact resolveA_of_nextWords_nil rfl s
  case idx =>
    rw [decodeSrc_idx hc]
    exact resolveA_of_nextWords_cons rfl s
  case short =>
    rw [decodeSrc_short hc]
    exact resolveA_short _ s

/-- Settles O7: PUSH by its own rule; every other code is a shared form, the same in both
fields. -/
theorem destinationOperandForms : Obligations.DestinationOperandForms := by
  refine fun a n s => ⟨?push, fun c hlt hc => ?common⟩
  case push =>
    rw [decodeDst_push, resolve_push]
    exact ⟨rfl, rfl, rfl, rfl, rfl⟩
  case common =>
    rw [decodeDst_common hc, decodeSrc_common hlt hc, resolve_common]
    exact ⟨rfl, rfl, rfl, rfl, rfl⟩

end Sys2Proof
end

section
/-! PROOFS. Data movement and arithmetic: the results of SET, ADD, SUB, MUL, MLI, DIV and MOD (41_arithmetic.md R190 to R195, R197). -/

namespace Sys2Proof.Machine

/-! ## Each instruction as an instance of its template (R151) -/

section
variable (b : DstOperand) (a : SrcOperand) (s : State)

theorem exec_set : exec (.set b a) s = storeResult 1 (fun _ av => av) b a s := rfl

theorem exec_add : exec (.add b a) s = storeResultEx 2 (fun bv av _ => addFlags bv av) b a s := rfl

theorem exec_sub : exec (.sub b a) s = storeResultEx 2 (fun bv av _ => subFlags bv av) b a s := rfl

theorem exec_mul : exec (.mul b a) s = storeResultEx 2 (fun bv av _ => mulFlags bv av) b a s := rfl

theorem exec_mli : exec (.mli b a) s = storeResultEx 2 (fun bv av _ => mliFlags bv av) b a s := rfl

theorem exec_div : exec (.div b a) s = storeResultEx 3 (fun bv av _ => divFlags bv av) b a s := rfl

theorem exec_mod : exec (.mod b a) s = storeResult 3 modResult b a s := rfl

end

/-! ## Results as operations on words (R10 to R12) -/

/-- A quotient of non-negative integers, rounded down, is the quotient of natural numbers. -/
theorem trunc16_fdiv_natCast (m n : Nat) : trunc16 ((m : Int).fdiv n) = BitVec.ofNat 16 (m / n) := by
  rw [Int.fdiv_eq_ediv_of_nonneg _ (Int.natCast_nonneg n), ← Int.natCast_ediv, trunc16_natCast]

theorem trunc16_uint_fdiv (bv av : Word) : trunc16 ((uint bv).fdiv (uint av)) = bv / av := by
  rw [uint, uint, trunc16_fdiv_natCast, BitVec.udiv_def]

/-- The carry of ADD is the overflow of the natural sum (R191). -/
theorem addFlags_eq (bv av : Word) :
    addFlags bv av = (bv + av, if 0xFFFF < bv.toNat + av.toNat then 1 else 0) := by
  have hcarry : uint bv + uint av > 0xFFFF ↔ 0xFFFF < bv.toNat + av.toNat := by
    simp only [uint]
    omega
  simp only [addFlags, trunc16_add, trunc16_uint, hcarry]

/-- The borrow of SUB is the unsigned comparison (R192). -/
theorem subFlags_eq (bv av : Word) :
    subFlags bv av = (bv - av, if bv.toNat < av.toNat then 0xFFFF else 0) := by
  have hborrow : uint bv - uint av < 0 ↔ bv.toNat < av.toNat := by
    simp only [uint]
    omega
  simp only [subFlags, trunc16_sub, trunc16_uint, hborrow]

/-- The high word of MUL is that of the natural product (R193). -/
theorem mulFlags_eq (bv av : Word) :
    mulFlags bv av = (bv * av, BitVec.ofNat 16 (bv.toNat * av.toNat / 65536)) := by
  have hhigh : trunc16 ((uint bv * uint av).fdiv 65536) = BitVec.ofNat 16 (bv.toNat * av.toNat / 65536) :=
    trunc16_fdiv_natCast (bv.toNat * av.toNat) 65536
  simp only [mulFlags, trunc16_mul, trunc16_uint, hhigh]

/-- MLI's low word is MUL's; its high word is that of the signed product, rounded down (R194). -/
theorem mliFlags_eq (bv av : Word) :
    mliFlags bv av = (bv * av, BitVec.ofInt 16 (bv.toInt * av.toInt / 65536)) := by
  have hhigh : trunc16 ((sint bv * sint av).fdiv 65536) = BitVec.ofInt 16 (bv.toInt * av.toInt / 65536) := by
    rw [sint_eq_toInt, sint_eq_toInt, Int.fdiv_eq_ediv_of_nonneg _ (by decide), trunc16]
  simp only [mliFlags, trunc16_mul, trunc16_sint, hhigh]

/-- DIV, clause by clause: both words are 0 for a zero divisor (R195). -/
theorem divFlags_eq (bv av : Word) :
    divFlags bv av = (if av = 0#16 then 0 else bv / av,
      if av = 0#16 then 0 else BitVec.ofNat 16 (bv.toNat * 65536 / av.toNat)) := by
  have hfraction : trunc16 ((uint bv * 65536).fdiv (uint av)) = BitVec.ofNat 16 (bv.toNat * 65536 / av.toNat) :=
    trunc16_fdiv_natCast (bv.toNat * 65536) av.toNat
  unfold divFlags
  split_ifs
  · rfl
  · rw [trunc16_uint_fdiv, hfraction]

/-- MOD's remainder, which the rule writes as the dividend less divisor times quotient (R197). -/
theorem modResult_eq (bv av : Word) : modResult bv av = if av = 0#16 then 0 else bv % av := by
  unfold modResult
  split_ifs
  · rfl
  · rw [← Int.fmod_def, ← trunc16_uint (bv % av)]
    exact congrArg trunc16 (Int.fmod_eq_emod_of_nonneg _ (Int.natCast_nonneg _))

end Sys2Proof.Machine

namespace Sys2Proof

open Machine

/-- Settles O10: SET's result is the value of a. -/
theorem setCopies : Obligations.SetCopies :=
  fun b a s => ⟨rfl, exec_set b a s⟩

/-- Settles O11, from the sum with its carry and the difference with its borrow. -/
theorem addSubResults : Obligations.AddSubResults := by
  refine fun b a s => ⟨rfl, rfl, ?add, ?sub⟩
  case add => simp only [exec_add, storeResultEx, addFlags_eq]
  case sub => simp only [exec_sub, storeResultEx, subFlags_eq]

/-- Settles O12, from the low and the high word of either product. -/
theorem mulMliResults : Obligations.MulMliResults := by
  refine fun b a s => ⟨rfl, rfl, ?mul, ?mli⟩
  case mul => simp only [exec_mul, storeResultEx, mulFlags_eq]
  case mli => simp only [exec_mli, storeResultEx, mliFlags_eq]

/-- Settles O13, from the quotient with its fraction and the remainder. -/
theorem divModResults : Obligations.DivModResults := by
  refine fun b a s => ⟨rfl, rfl, ?div, ?mod⟩
  case div => simp only [exec_div, storeResultEx, divFlags_eq]
  case mod => simp only [exec_mod, storeResult, modResult_eq]

end Sys2Proof
end

section
/-! PROOFS. Bitwise logic: the results of AND, BOR and XOR (42_bitwise_shift.md R230 to R232). -/

namespace Sys2Proof.Machine

/-! ## Each instruction as an instance of the template that leaves EX alone (R151) -/

section
variable (b : DstOperand) (a : SrcOperand) (s : State)

theorem exec_and : exec (.and b a) s = storeResult 1 (fun bv av => bv &&& av) b a s := rfl

theorem exec_bor : exec (.bor b a) s = storeResult 1 (fun bv av => bv ||| av) b a s := rfl

theorem exec_xor : exec (.xor b a) s = storeResult 1 (fun bv av => bv ^^^ av) b a s := rfl

end

end Sys2Proof.Machine

namespace Sys2Proof

open Machine

/-- Settles O16: each is `storeResult` of its operator on words, whose one result goes to the destination. -/
theorem bitwiseResults : Obligations.BitwiseResults := by
  refine fun b a s => ⟨rfl, rfl, rfl, ?and, ?bor, ?xor⟩
  case and => simp only [exec_and, storeResult]
  case bor => simp only [exec_bor, storeResult]
  case xor => simp only [exec_xor, storeResult]

end Sys2Proof
end

section
/-! PROOFS. Conditionals: the eight tests, the two outcomes of a conditional, and each instruction as the conditional of its
test (43_conditional.md R250 to R258). -/

namespace Sys2Proof.Machine

/-! ## The tests as operations on words (R251 to R258) -/

theorem testIfb_eq (bv av : Word) : testIfb bv av = decide (bv &&& av ≠ 0#16) := by
  simp only [testIfb, bne, beq_eq_decide, decide_not, ne_eq]

theorem testIfc_eq (bv av : Word) : testIfc bv av = decide (bv &&& av = 0#16) := beq_eq_decide _ _

theorem testIfe_eq (bv av : Word) : testIfe bv av = decide (bv = av) := beq_eq_decide _ _

theorem testIfn_eq (bv av : Word) : testIfn bv av = decide (bv ≠ av) := by
  simp only [testIfn, bne, beq_eq_decide, decide_not, ne_eq]

/-- IFL compares the unsigned readings (R11, R257). -/
theorem testIfl_eq (bv av : Word) : testIfl bv av = BitVec.ult bv av := by
  simp only [testIfl, uint, Nat.cast_lt, BitVec.ult]

/-- IFG is IFL with the operands exchanged (R255, R257). -/
theorem testIfg_eq (bv av : Word) : testIfg bv av = BitVec.ult av bv := testIfl_eq av bv

/-- IFU compares the two's complement readings (R11, R258). -/
theorem testIfu_eq (bv av : Word) : testIfu bv av = BitVec.slt bv av := by
  simp only [testIfu, sint_eq_toInt, BitVec.slt]

/-- IFA is IFU with the operands exchanged (R256, R258). -/
theorem testIfa_eq (bv av : Word) : testIfa bv av = BitVec.slt av bv := testIfu_eq av bv

/-! ## The two outcomes of a conditional (R154, R250) -/

section
variable {test : Word → Word → Bool} {b : DstOperand} {a : SrcOperand} {s : State}

/-- A test that holds leaves the resolution of the operands and the cost. -/
theorem conditional_of_test (h : test (resolve b a s).bv (resolve b a s).av = true) :
    conditional test b a s = .next ((resolve b a s).st.charge (2 + (resolve b a s).cost)) :=
  if_pos h

/-- A test that fails moves PC to where the skip ends, at one cycle more for each instruction passed over. -/
theorem conditional_of_skipsTo (h : test (resolve b a s).bv (resolve b a s).av = false) {q : Word} {k : Nat}
    (hskip : SkipsTo (resolve b a s).st.mem (resolve b a s).st.pc q k) :
    conditional test b a s = .next (((resolve b a s).st.setPc q).charge (2 + (resolve b a s).cost + k)) := by
  have hq := (State.skip_eq_some _ q k).mpr hskip
  simp only [conditional, h, hq, Bool.false_eq_true, if_false]

end

/-! ## Each instruction as an instance of the conditional (R250) -/

section
variable (b : DstOperand) (a : SrcOperand) (s : State)

theorem exec_ifb : exec (.ifb b a) s = conditional testIfb b a s := rfl

theorem exec_ifc : exec (.ifc b a) s = conditional testIfc b a s := rfl

theorem exec_ife : exec (.ife b a) s = conditional testIfe b a s := rfl

theorem exec_ifn : exec (.ifn b a) s = conditional testIfn b a s := rfl

theorem exec_ifg : exec (.ifg b a) s = conditional testIfg b a s := rfl

theorem exec_ifa : exec (.ifa b a) s = conditional testIfa b a s := rfl

theorem exec_ifl : exec (.ifl b a) s = conditional testIfl b a s := rfl

theorem exec_ifu : exec (.ifu b a) s = conditional testIfu b a s := rfl

end

end Sys2Proof.Machine

namespace Sys2Proof

open Machine Claims

/-- Every instruction of the list is the conditional of the test that stands beside it (R251 to R258). -/
theorem exec_of_mem_conditionalTests {p : (DstOperand → SrcOperand → Instr) × (Word → Word → Bool)}
    (hp : p ∈ conditionalTests) (b : DstOperand) (a : SrcOperand) (s : State) :
    exec (p.1 b a) s = conditional p.2 b a s := by
  simp only [conditionalTests, List.mem_cons, List.not_mem_nil, or_false] at hp
  obtain rfl | rfl | rfl | rfl | rfl | rfl | rfl | rfl := hp
  · rw [exec_ifb, funext₂ testIfb_eq]
  · rw [exec_ifc, funext₂ testIfc_eq]
  · rw [exec_ife, funext₂ testIfe_eq]
  · rw [exec_ifn, funext₂ testIfn_eq]
  · rw [exec_ifg, funext₂ testIfg_eq]
  · rw [exec_ifa, funext₂ testIfa_eq]
  · rw [exec_ifl, funext₂ testIfl_eq]
  · rw [exec_ifu, funext₂ testIfu_eq]

/-- Settles O20: the two outcomes of `conditional`, for each instruction and its test. -/
theorem conditionalResults : Obligations.ConditionalResults := by
  refine ⟨fun b a => rfl, fun p hp b a s => ⟨fun htest => ?holds, fun htest q k hskip => ?fails⟩⟩
  case holds => rw [exec_of_mem_conditionalTests hp, conditional_of_test htest]
  case fails => rw [exec_of_mem_conditionalTests hp, conditional_of_skipsTo htest hskip]

end Sys2Proof
end

section
/-! PROOFS. Block transfer: the results of STI and STD (44_block_transfer.md R270, R271). -/

namespace Sys2Proof.Machine

/-! ## The step of I and J (R270, R271) -/

/-- Adding to I and then to J is one update of the two registers: neither addition reads what the other wrote. -/
theorem State.setReg_i_setReg_j_add (t : State) (d : Word) :
    (t.setReg .i (t.reg .i + d)).setReg .j ((t.setReg .i (t.reg .i + d)).reg .j + d) =
      { t with gen := { t.gen with i := t.gen.i + d, j := t.gen.j + d } } := rfl

section
variable (b : DstOperand) (a : SrcOperand) (s : State)

/-- The write comes first: I and J are stepped from what it leaves in them. -/
theorem storeAndStep_eq (d : Word) :
    storeAndStep d b a s =
      let o := resolve b a s
      let t := o.st.writeLoc o.bloc o.av
      .next (State.charge { t with gen := { t.gen with i := t.gen.i + d, j := t.gen.j + d } } (2 + o.cost)) := by
  simp only [storeAndStep, State.setReg_i_setReg_j_add]

/-! ## Each instruction as an instance of the copy and step -/

theorem exec_sti : exec (.sti b a) s = storeAndStep 1 b a s := rfl

theorem exec_std : exec (.std b a) s = storeAndStep (-1) b a s := rfl

end

end Sys2Proof.Machine

namespace Sys2Proof

open Machine

/-- Settles O19: each is the copy with its step of I and J; STD's step of -1 is a subtraction modulo 65536. -/
theorem stiStdResults : Obligations.StiStdResults := by
  refine fun b a s => ⟨rfl, rfl, ?sti, ?std⟩
  case sti => rw [exec_sti, storeAndStep_eq]
  case std => simp only [exec_std, storeAndStep_eq, BitVec.sub_eq_add_neg]

end Sys2Proof
end

section
/-! PROOFS. Control and interrupts: the results of JSR, IAG, IAS, IAQ and RFI (45_control_interrupt.md R280, R282 to
R285). -/

namespace Sys2Proof.Machine

/-! ## Memory after an operand, and the stack (R16, R146) -/

@[simp] theorem srcAfter_read (s : State) (a : SrcOperand) (addr : Word) : (srcAfter s a).read addr = s.read addr := by
  simp only [State.read, srcAfter_mem]

/-- A pushed word stands at the new SP. -/
theorem State.read_push_same {s : State} (h : s.mem.wf = true) (v : Word) : (s.push v).read (s.sp - 1) = v :=
  Memory.read_write_same h _ v

/-- The return from an interrupt as one update: neither pop reads what the other changed (R284). -/
theorem State.returnFromInterrupt_eq (s : State) :
    s.returnFromInterrupt =
      { s with
        queueing := false, gen := { s.gen with a := s.read s.sp }, pc := s.read (s.sp + 1), sp := s.sp + 2 } := by
  have hsp : s.sp + 2 = s.sp + 1 + 1 := (BitVec.add_assoc s.sp 1 1).symm
  rw [hsp]
  rfl

/-! ## Each instruction as its meaning in the state that its operand leaves -/

section
variable (a : SrcOperand) (s : State)

theorem exec_jsr : exec (.jsr a) s = execJsr a s := rfl

theorem exec_iag : exec (.iag a) s = execIag a s := rfl

theorem exec_ias : exec (.ias a) s = execIas a s := rfl

theorem exec_rfi : exec (.rfi a) s = execRfi a s := rfl

theorem exec_iaq : exec (.iaq a) s = execIaq a s := rfl

end

end Sys2Proof.Machine

namespace Sys2Proof

open Machine Claims

/-- Settles O23: the word at the new SP is the pushed PC, which is past the operand's next word. -/
theorem jsrResult : Obligations.JsrResult := by
  refine fun a s hwf => ⟨rfl, _, exec_jsr a s, rfl, rfl, ?returnAddress, ?cycles⟩
  case returnAddress =>
    rw [pcAfterSrc, ← srcAfter_pc]
    exact State.read_push_same (s := srcAfter s a) (by rwa [srcAfter_mem]) _
  case cycles =>
    simp only [State.charge_cycles, State.setPc_cycles, State.push_cycles, resolveA_st, srcAfter_cycles, Nat.add_assoc]

/-- Settles O25: resolving the operand leaves IA, which IAG reads, as it was. -/
theorem iagIasIaqResults : Obligations.IagIasIaqResults := by
  refine fun a s => ⟨rfl, rfl, rfl, ?iag, ?ias, ?iaq⟩
  case iag => simp only [exec_iag, execIag, resolveA_st, srcAfter_ia]
  case ias => simp only [exec_ias, execIas, State.setIa]
  case iaq => simp only [exec_iaq, execIaq, State.setQueueing]

/-- Settles O26: the return from an interrupt, in the state that the operand leaves, with memory and registers as before. -/
theorem rfiResult : Obligations.RfiResult := by
  refine fun a s => ⟨rfl, ?_⟩
  simp only [exec_rfi, execRfi, State.returnFromInterrupt_eq, resolveA_st, srcAfter_gen, srcAfter_read]

end Sys2Proof
end

section
/-! PROOFS. The display: the dumps of the default font and palette (48_dev_display.md R376, R377). -/

namespace Sys2Proof.Machine

/-! ## The words that are dumped (R384) -/

theorem defaultFont_length : Params.defaultFont.length = 256 := by
  simp only [Params.defaultFont, List.length_map, List.length_range]

theorem defaultFont_getD {i : Nat} (h : i < 256) : Params.defaultFont.getD i 0#16 = Config.defaultFont i := by
  simp only [Params.defaultFont, List.getD_eq_getElem?_getD, List.getElem?_map, List.getElem?_range h, Option.map_some,
    Option.getD_some]

theorem Parameters.defaultPalette_length {p : Parameters} (h : p.wf = true) : p.defaultPalette.length = 16 :=
  (Parameters.wf_iff.mp h).2.1

/-! ## A block of writes in the state's memory (R77) -/

section
variable {s : State} {base : Word} {vs : List Word}

theorem State.read_writeBlock (h : s.mem.wf = true) (hl : vs.length ≤ 65536) {i : Nat} (hi : i < vs.length) :
    State.read { s with mem := s.mem.writeBlock base vs } (base + BitVec.ofNat 16 i) = vs.getD i 0#16 :=
  Memory.read_writeBlock vs h base hl hi

theorem State.read_writeBlock_ne {addr : Word} (h : ∀ i < vs.length, addr ≠ base + BitVec.ofNat 16 i) :
    State.read { s with mem := s.mem.writeBlock base vs } addr = s.read addr :=
  Memory.read_writeBlock_ne vs h

end

/-! ## The handler's two selectors that write memory -/

section
variable {d : DisplayState} {s : State}

/-- Selector 4 is a block of writes of the default font, whatever font is in use (R376). -/
theorem displayHandle_dumpFont (h : s.gen.a = 4#16) :
    displayHandle d s =
      { st := { s with mem := s.mem.writeBlock s.gen.b Params.defaultFont }, dev := .display d, extra := 256 } := by
  rw [displayHandle, h]
  rfl

/-- Selector 5 is a block of writes of the default palette, whatever palette is in use (R377). -/
theorem displayHandle_dumpPalette (h : s.gen.a = 5#16) :
    displayHandle d s =
      { st := { s with mem := s.mem.writeBlock s.gen.b s.params.defaultPalette }, dev := .display d, extra := 16 } := by
  rw [displayHandle, h]
  rfl

end

end Sys2Proof.Machine

namespace Sys2Proof

open Machine

/-- Settles O54: either dump is a block of writes, which stores its words within the block and leaves every other address
alone. -/
theorem displayDumps : Obligations.DisplayDumps := by
  refine fun d s hmem hparams => ⟨fun ha => ?font, fun ha => ?palette⟩
  case font =>
    have hlen := defaultFont_length
    rw [displayHandle_dumpFont ha]
    refine ⟨rfl, rfl, fun i hi => ?inside, fun addr hout => ?outside⟩
    case inside => rw [State.read_writeBlock hmem (by omega) (by omega), defaultFont_getD hi]
    case outside => rw [State.read_writeBlock_ne (by rwa [hlen])]
  case palette =>
    have hlen := Parameters.defaultPalette_length hparams
    rw [displayHandle_dumpPalette ha]
    refine ⟨rfl, rfl, fun i hi => ?inside, fun addr hout => ?outside⟩
    case inside => rw [State.read_writeBlock hmem (by omega) (by omega)]
    case outside => rw [State.read_writeBlock_ne (by rwa [hlen])]

end Sys2Proof
end

section
/-! PROOFS. Encoding: decoding and encoding are inverse to each other (30_encoding.md R100 to R116). -/

namespace Sys2Proof

/-! ## Operands: the decoder reads an operand back from its code and its next word (R105 to R107) -/

theorem decodeOperand_code (o : Operand) (ws : List Word) :
    decodeOperand o.code ((o.nextWords ++ ws).getD 0 0) = o := by
  cases o with
  | reg r => cases r <;> rfl
  | ind r => cases r <;> rfl
  | idx r n => cases r <;> rfl
  | _ => rfl

/-- A short literal is read back from its code when it is one of the 32 that have a code (R107). -/
theorem decodeSrc_code_short {v : Word} (h : (v + 1).toNat < 32) (n : Word) :
    decodeSrc (SrcOperand.short v).code n = .short v := by
  have hpop : (SrcOperand.short v).code ≠ 0x18 := by simp only [SrcOperand.code]; omega
  have hcommon : ¬ (SrcOperand.short v).code < 0x20 := by simp only [SrcOperand.code]; omega
  have hv : BitVec.ofNat 16 (SrcOperand.short v).code - 0x21 = v := by
    simp only [SrcOperand.code, Nat.mod_eq_of_lt h]
    bv_omega
  rw [decodeSrc, if_neg hpop, if_neg hcommon, hv]

theorem decodeSrc_code {a : SrcOperand} (h : a.wellFormed = true) (ws : List Word) :
    decodeSrc a.code ((a.nextWords ++ ws).getD 0 0) = a := by
  cases a with
  | common o =>
    obtain ⟨hlt, hpop⟩ := o.code_lt
    exact (decodeSrc_common hlt hpop _).trans (congrArg _ (decodeOperand_code o ws))
  | pop => rfl
  | short v => exact decodeSrc_code_short (of_decide_eq_true h) _

theorem decodeDst_code (b : DstOperand) (ws : List Word) :
    decodeDst b.code ((b.nextWords ++ ws).getD 0 0) = b := by
  cases b with
  | common o => exact (decodeDst_common o.code_lt.2 _).trans (congrArg _ (decodeOperand_code o ws))
  | push => rfl

/-- The decoder looks for a's next word exactly where the encoder put one (R103). -/
theorem SrcOperand.codeReadsNextWord_code (a : SrcOperand) : codeReadsNextWord a.code = !a.nextWords.isEmpty := by
  cases a with
  | common o => exact o.codeReadsNextWord_code
  | pop => rfl
  | short v => exact codeReadsNextWord_short (Nat.le_add_right _ _)

/-- b's next word is the one after a's, or the first where a has none (R104). -/
theorem SrcOperand.getD_nextWords_append (a : SrcOperand) (ws : List Word) :
    (if codeReadsNextWord a.code then (a.nextWords ++ ws).getD 1 0 else (a.nextWords ++ ws).getD 0 0) = ws.getD 0 0 := by
  rw [a.codeReadsNextWord_code]
  have hle := a.length_nextWords_le
  match h : a.nextWords, hle with
  | [], _ => rfl
  | [n], _ => rfl

/-! ## Instructions: the opcode and the operands determine them (R111 to R114) -/

/-- A basic instruction is what the basic opcode map makes of its opcode and its two operands. -/
theorem Instr.of_dst_some {i : Instr} {b : DstOperand} (h : i.dst = some b) :
    ∃ o, i.opcode = .basic o ∧ 0 < o ∧ o < 32 ∧ decodeBasic o b i.src = i := by
  cases i <;> cases h <;> exact ⟨_, rfl, by decide, by decide, rfl⟩

/-- A special instruction is what the special opcode map makes of its opcode and its operand. -/
theorem Instr.of_dst_none {i : Instr} (h : i.dst = none) :
    ∃ so, i.opcode = .special so ∧ so < 32 ∧ decodeSpecial so i.src = i := by
  cases i <;> cases h <;> exact ⟨_, rfl, by decide, rfl⟩

theorem opcode_decodeBasic {o : Nat} (h0 : 0 < o) (h : o < 32) (b : DstOperand) (a : SrcOperand) :
    (decodeBasic o b a).opcode = .basic o := by
  interval_cases o <;> rfl

theorem opcode_decodeSpecial {so : Nat} (h : so < 32) (a : SrcOperand) : (decodeSpecial so a).opcode = .special so := by
  interval_cases so <;> rfl

/-- The fields of an encoded instruction's first word are its operands' codes and its opcode (R101, R102), so the decoder
picks its constructor and its operands. -/
theorem decodeInstr_firstWord {i : Instr} (h : i.wellFormed = true) (rest : List Word) :
    let ws := i.src.nextWords ++ (i.dstNextWords ++ rest)
    decodeInstr i.firstWord (ws.getD 0 0) (ws.getD 1 0) = i := by
  have hsrc := decodeSrc_code (a := i.src) h (i.dstNextWords ++ rest)
  cases hd : i.dst with
  | some b =>
    obtain ⟨o, hop, h0, hlt, hi⟩ := Instr.of_dst_some hd
    obtain ⟨hA, hB, hO⟩ := fields_of_join i.src.code_lt b.code_lt hlt
    have hw : i.firstWord = BitVec.ofNat 16 (i.src.code * 1024 + b.code * 32 + o) := by
      simp only [Instr.firstWord, hop, Instr.dstCode, hd]
    have hdst : i.dstNextWords = b.nextWords := by simp only [Instr.dstNextWords, hd]
    rw [hdst] at hsrc
    simp only [decodeInstr, hw, hA, hB, hO, hdst, hsrc, Nat.pos_iff_ne_zero.mp h0, if_false,
      SrcOperand.getD_nextWords_append, decodeDst_code, hi]
  | none =>
    obtain ⟨so, hop, hlt, hi⟩ := Instr.of_dst_none hd
    obtain ⟨hA, hB, hO⟩ := fields_of_join i.src.code_lt hlt (Nat.zero_lt_succ 31)
    have hw : i.firstWord = BitVec.ofNat 16 (i.src.code * 1024 + so * 32 + 0) := by
      simp only [Instr.firstWord, hop, Nat.add_zero]
    simp only [decodeInstr, hw, hA, hB, hO, hsrc, if_true, hi]

/-- Settles O1: the first word decodes to the instruction, so its length is the one the decoder drops. -/
theorem decodeEncodeRoundTrip : Obligations.DecodeEncodeRoundTrip := by
  intro i rest hwf
  have hi := decodeInstr_firstWord hwf rest
  have hlen : wordLength i.firstWord = 1 + i.src.nextWords.length + i.dstNextWords.length := by
    rw [← length_decodeInstr, hi, Instr.length]
  have hws : encode i ++ rest = i.firstWord :: (i.src.nextWords ++ (i.dstNextWords ++ rest)) := by
    simp only [encode, List.cons_append, List.append_assoc]
  rw [hws, decode_cons_of_wordLength_le (by simp only [hlen, List.length_append]; omega), hi]
  congr 1
  rw [← List.append_assoc, List.drop_left' (by simp only [hlen, List.length_append]; omega)]

/-! ## The words an instruction is decoded from (R100, R104, R110) -/

theorem nextWords_decodeOperand {c : Nat} (h : c < 0x20) (hc : c ≠ 0x18) (n : Word) :
    (decodeOperand c n).nextWords = if codeReadsNextWord c then [n] else [] := by
  obtain hlo | hhi := Nat.lt_or_gt_of_ne hc
  · interval_cases c <;> rfl
  · interval_cases c <;> rfl

theorem nextWords_decodeSrc (c : Nat) (n : Word) :
    (decodeSrc c n).nextWords = if codeReadsNextWord c then [n] else [] := by
  unfold decodeSrc
  split
  next hpop =>
    subst hpop
    rfl
  next hpop =>
    split
    next hcommon => exact nextWords_decodeOperand hcommon hpop n
    next hcommon =>
      rw [codeReadsNextWord_short (Nat.not_lt.mp hcommon)]
      rfl

theorem nextWords_decodeDst {c : Nat} (h : c < 0x20) (n : Word) :
    (decodeDst c n).nextWords = if codeReadsNextWord c then [n] else [] := by
  unfold decodeDst
  split
  next hpush =>
    subst hpush
    rfl
  next hpush => exact nextWords_decodeOperand h hpush n

/-- Every code of the a field decodes to an operand that has an encoding, which is that code (R106, R107). -/
theorem decodeSrc_wellFormed {c : Nat} (h : c < 0x40) (n : Word) :
    (decodeSrc c n).wellFormed = true ∧ (decodeSrc c n).code = c := by
  unfold decodeSrc
  split
  next hpop => exact ⟨rfl, hpop.symm⟩
  next hpop =>
    split
    next hcommon => exact ⟨rfl, Operand.code_decodeOperand hcommon hpop n⟩
    next hcommon =>
      have hv : (BitVec.ofNat 16 c - 0x21 + 1).toNat = c - 0x20 := by bv_omega
      simp only [SrcOperand.wellFormed, SrcOperand.code, hv, decide_eq_true_eq]
      omega

theorem code_decodeDst {c : Nat} (h : c < 0x20) (n : Word) : (decodeDst c n).code = c := by
  unfold decodeDst
  split
  next hpush => exact hpush.symm
  next hpush => exact Operand.code_decodeOperand h hpush n

/-- A decoded instruction has the first word it was decoded from (R101, R102). -/
theorem firstWord_decodeInstr (w n1 n2 : Word) : (decodeInstr w n1 n2).firstWord = w := by
  obtain ⟨hA, hB, hO⟩ := field_lt w
  have hsrc := (decodeSrc_wellFormed hA n1).2
  have hjoin := field_join w
  by_cases ho : fieldO w = 0
  · rw [ho, Nat.add_zero] at hjoin
    simp only [decodeInstr, ho, if_true, Instr.firstWord, opcode_decodeSpecial hB, decodeSpecial_operands, hsrc, hjoin]
  · simp only [decodeInstr, ho, if_false, Instr.firstWord, Instr.dstCode, opcode_decodeBasic (Nat.pos_of_ne_zero ho) hO,
      decodeBasic_operands, hsrc, code_decodeDst hB, hjoin]

/-- The operands of a decoded instruction are those of its fields, whatever the opcode (R101, R102). -/
theorem src_decodeInstr (w n1 n2 : Word) : (decodeInstr w n1 n2).src = decodeSrc (fieldA w) n1 := by
  unfold decodeInstr
  split
  · exact (decodeSpecial_operands _ _).1
  · exact (decodeBasic_operands _ _ _).1

theorem dstNextWords_decodeInstr (w n1 n2 : Word) :
    (decodeInstr w n1 n2).dstNextWords =
      if fieldO w ≠ 0 && codeReadsNextWord (fieldB w) then [if codeReadsNextWord (fieldA w) then n2 else n1] else [] := by
  by_cases ho : fieldO w = 0
  · simp [decodeInstr, ho, Instr.dstNextWords, decodeSpecial_operands]
  · simp [decodeInstr, ho, Instr.dstNextWords, decodeBasic_operands, nextWords_decodeDst (field_lt w).2.1]

/-- The next words of a decoded instruction are the words that follow its first word in the list (R103, R104). -/
theorem nextWords_decodeInstr {w : Word} {rest : List Word} (h : wordLength w ≤ rest.length + 1) :
    let i := decodeInstr w (rest.getD 0 0) (rest.getD 1 0)
    i.src.nextWords ++ i.dstNextWords ++ rest.drop (wordLength w - 1) = rest := by
  simp only [src_decodeInstr, nextWords_decodeSrc, dstNextWords_decodeInstr]
  unfold wordLength at h ⊢
  generalize codeReadsNextWord (fieldA w) = readsA at h ⊢
  generalize (decide (fieldO w ≠ 0) && codeReadsNextWord (fieldB w)) = readsB at h ⊢
  match readsA, readsB, rest, h with
  | false, false, _, _ => rfl
  | true, false, _ :: _, _ => rfl
  | false, true, _ :: _, _ => rfl
  | true, true, _ :: _ :: _, _ => rfl
  | true, false, [], h => simp at h
  | false, true, [], h => simp at h
  | true, true, [], h => simp at h
  | true, true, [_], h => simp at h

/-- Settles O2: the first word and the next words of what is decoded are those of the list. -/
theorem encodeDecodeRoundTrip : Obligations.EncodeDecodeRoundTrip := by
  intro ws i rest h
  match ws, h with
  | w :: ws, h =>
    have hle : wordLength w ≤ ws.length + 1 := by
      by_contra hlt
      simp [decode, Nat.not_le.mp hlt] at h
    rw [decode_cons_of_wordLength_le hle, DecodeResult.ok.injEq] at h
    obtain ⟨rfl, rfl⟩ := h
    refine ⟨?wellFormed, ?words⟩
    case wellFormed =>
      rw [Instr.wellFormed, src_decodeInstr]
      exact (decodeSrc_wellFormed (field_lt w).1 _).1
    case words => rw [encode, firstWord_decodeInstr, List.cons_append, nextWords_decodeInstr hle]

/-- Settles O4, by running the decoder on each list of words. -/
theorem sampleWordsDecode : Obligations.SampleWordsDecode :=
  ⟨rfl, rfl, rfl, rfl, rfl, rfl, rfl, rfl⟩

end Sys2Proof
end

section
/-! PROOFS. The step: what keeps the invariant of the machine, and what every step of the CPU keeps and costs (10_state.md,
40_execution.md R157). -/

namespace Sys2Proof.Machine

variable {s t : State}

/-! ## Slots -/

/-- No completion is pending: the last clause of the invariant, slot by slot. -/
theorem allIdle_iff {slots : List Slot} :
    slots.all (fun x => !x.completing) = true ↔ ∀ x ∈ slots, x.completing = false := by
  simp only [List.all_eq_true, Bool.not_eq_true']

theorem allIdle_set {slots : List Slot} (h : slots.all (fun x => !x.completing) = true) (k : Nat) {y : Slot}
    (hy : y.completing = false) : (slots.set k y).all (fun x => !x.completing) = true := by
  rw [allIdle_iff] at h ⊢
  intro x hx
  obtain hx | rfl := List.mem_or_eq_of_mem_set hx
  · exact h x hx
  · exact hy

theorem filterMap_inst?_eq {slots slots' : List Slot} (h : slots.map Slot.inst? = slots'.map Slot.inst?) :
    slots.filterMap Slot.inst? = slots'.filterMap Slot.inst? := by
  have key (l : List Slot) : l.filterMap Slot.inst? = (l.map Slot.inst?).filterMap id := by rw [List.filterMap_map]; rfl
  rw [key, key, h]

/-- The local state of a device of a legal machine is legal. -/
theorem State.Inv.legalDevice (hi : s.Inv) {h : Nat} {d : Device} (hs : s.slots[h]? = some (.connected d)) :
    deviceWf s.params d.state = true :=
  List.all_eq_true.mp hi.devices _ (List.mem_of_getElem? hs)

/-! ## What keeps the invariant -/

/-- What keeps the legality of the state and leaves nothing in `pending` keeps the invariant, when it starts no transfer on
an unpowered CPU. -/
theorem Keeps.inv (h : Keeps s t) (hi : s.Inv) (hpending : t.pending = [])
    (hidle : s.powered = false → t.slots.all (fun x => !x.completing) = true) : t.Inv where
  params := by rw [h.params]; exact hi.params
  memory := h.memory hi.memory
  pending := hpending
  slotCount := by
    have hlen : t.slots.length = s.slots.length := by simpa using congrArg List.length h.instances
    rw [hlen]
    exact hi.slotCount
  devices := by rw [h.params]; exact h.devices hi.params hi.devices
  instances := by rw [filterMap_inst?_eq h.instances]; exact hi.instances
  unpowered := fun hp => hidle (by rwa [← h.powered])

/-- A step of a powered CPU keeps the state legal and drains `pending`. -/
theorem cpuStep_next (h : cpuStep s = .next t) : Ran s t ∧ t.pending = [] := by
  obtain ⟨u, hu, hran, hpending⟩ | ⟨hf, -⟩ | ⟨hr, -⟩ := cpuStep_ran s
  · rw [hu] at h
    cases h
    exact ⟨hran, hpending⟩
  · rw [hf] at h
    cases h
  · rw [hr] at h
    cases h

/-- Only a powered CPU steps (R42, R158). -/
theorem step_of_powered (h : s.powered = true) : step s = cpuStep s := if_pos h

theorem step_of_unpowered (h : s.powered = false) : step s = .refused .executeUnpowered := by
  simp only [step, stepOnce, h, Bool.false_eq_true, if_false]

theorem step_next (h : step s = .next t) : s.powered = true ∧ cpuStep s = .next t := by
  cases hp : s.powered with
  | true => exact ⟨rfl, (step_of_powered hp).symm.trans h⟩
  | false =>
    rw [step_of_unpowered hp] at h
    cases h

end Sys2Proof.Machine

namespace Sys2Proof

open Machine

/-- Settles O40: a step keeps the state legal and drains `pending`, and only a powered CPU steps. -/
theorem stepKeepsInvariant : Obligations.StepKeepsInvariant := by
  intro s t hi h
  obtain ⟨hp, h⟩ := step_next h
  obtain ⟨hran, hpending⟩ := cpuStep_next h
  exact hran.toKeeps.inv hi hpending (fun hoff => absurd (hp.symm.trans hoff) (by decide))

/-- Settles O38: what a step leaves is at least one cycle later. -/
theorem everyStepCosts : Obligations.EveryStepCosts :=
  fun _ _ h => (cpuStep_next (step_next h).2).1.cost

/-- Settles O43, as two of the things that every step keeps. -/
theorem onFireIsSticky : Obligations.OnFireIsSticky := by
  intro s t h
  have hran := (cpuStep_next (step_next h).2).1
  exact ⟨hran.onFire, hran.fire⟩

/-- Settles O44, as five of the things that every step keeps. -/
theorem stepsKeepBusAndPower : Obligations.StepsKeepBusAndPower := by
  intro s t h
  have hran := (cpuStep_next (step_next h).2).1
  exact ⟨hran.params, hran.powered, hran.identities, hran.instances, hran.wakeReq⟩

/-- Settles O39, from everything that a step can do. -/
theorem onlyEndlessSkipStops : Obligations.OnlyEndlessSkipStops := by
  intro s hp
  rw [step_of_powered hp]
  obtain ⟨t, ht, -⟩ | hstuck := cpuStep_ran s
  · exact .inl ⟨t, ht⟩
  · exact .inr hstuck

end Sys2Proof
end

section
/-! PROOFS. Reset: the state after construction and its invariant (10_state.md R47, 70_reset_and_hazards.md R500). -/

namespace Sys2Proof.Machine

/-- A machine is constructed in a legal state, for all parameters of their types (R9, R500). -/
theorem State.construct_inv {p : Parameters} (h : p.wf = true) : (State.construct p).Inv where
  params := h
  memory := rfl
  pending := rfl
  slotCount := Nat.zero_le _
  devices := rfl
  instances := List.nodup_nil
  unpowered := fun _ => rfl

/-- The defaults are values of the types that the table gives the parameters (R9). -/
theorem Params.defaults_wf : Params.defaults.wf = true := by decide

end Sys2Proof.Machine

namespace Sys2Proof

open Machine

/-- Settles O41: the constructed state with the defaults, whose queue is empty. -/
theorem resetMeetsInvariant : Obligations.ResetMeetsInvariant :=
  ⟨State.construct_inv Params.defaults_wf, fun h => absurd h (Nat.not_lt_zero _)⟩

/-- Settles O42: the fields of the constructed state; its memory lists no word, so each reads 0. -/
theorem resetState : Obligations.ResetState := by
  refine ⟨rfl, fun p => ⟨fun r => ?gen, ?_⟩⟩
  case gen => cases r <;> rfl
  exact ⟨rfl, rfl, rfl, rfl, rfl, rfl, rfl, rfl, rfl, rfl, rfl, fun _ => rfl, rfl, rfl⟩

end Sys2Proof
end

section
/-! PROOFS. The host interface: every host action keeps the invariant of the machine and its parameters
(70_reset_and_hazards.md R510 to R512). -/

namespace Sys2Proof.Machine

variable {s t : State}

/-! ## Execute (R158) -/

/-- The loop of Execute is a run of steps, each of which keeps the state legal and drains `pending`. -/
theorem executeLoop_next {n limit : Nat} (h : executeLoop n limit s = .next t) (hpending : s.pending = []) :
    Keeps s t ∧ t.pending = [] := by
  induction n generalizing s with
  | zero =>
    cases h
    exact ⟨Keeps.refl _, hpending⟩
  | succ n ih =>
    rw [executeLoop] at h
    split at h
    next =>
      split at h
      next u hu =>
        obtain ⟨hran, hp⟩ := cpuStep_next hu
        obtain ⟨hkeeps, ht⟩ := ih h hp
        exact ⟨hran.toKeeps.trans hkeeps, ht⟩
      next => cases h
      next => cases h
    next =>
      cases h
      exact ⟨Keeps.refl _, hpending⟩

/-- What Execute answers is what its loop leaves, with wake_req cleared (R158, R161). -/
theorem State.execute_next {budget : Nat} (h : s.execute budget = .next t) :
    s.powered = true ∧ ∃ u, executeLoop budget (s.cycles + budget) s = .next u ∧ t = { u with wakeReq := false } := by
  unfold State.execute at h
  split at h
  next hp =>
    split at h
    next u hu =>
      cases h
      exact ⟨hp, u, hu, rfl⟩
    next => cases h
    next => cases h
  next => cases h

theorem State.execute_inv {budget : Nat} (hi : s.Inv) (h : s.execute budget = .next t) : t.Inv ∧ t.params = s.params := by
  obtain ⟨hp, u, hu, rfl⟩ := State.execute_next h
  obtain ⟨hkeeps, hpending⟩ := executeLoop_next hu hi.pending
  have hu := hkeeps.inv hi hpending (fun hoff => absurd (hp.symm.trans hoff) (by decide))
  exact ⟨⟨hu.params, hu.memory, hu.pending, hu.slotCount, hu.devices, hu.instances, hu.unpowered⟩, hkeeps.params⟩

/-! ## Memory, registers and flags (R503, R505, R511) -/

theorem State.trigger_inv (hi : s.Inv) (m : Word) : (s.trigger m).Inv :=
  (Keeps.trigger s m).inv hi ((s.trigger_pending m).trans hi.pending) (by rw [s.trigger_slots]; exact hi.unpowered)

/-- A legal memory in place of another keeps the invariant. -/
theorem State.Inv.setMem (hi : s.Inv) {m : Memory} (h : m.wf = true) : State.Inv { s with mem := m } :=
  ⟨hi.params, h, hi.pending, hi.slotCount, hi.devices, hi.instances, hi.unpowered⟩

theorem State.loadImage_inv {bytes : List Byte} (hi : s.Inv) (h : s.loadImage bytes = .next t) :
    t.Inv ∧ t.params = s.params := by
  unfold State.loadImage at h
  split_ifs at h
  cases h
  exact ⟨hi.setMem (Memory.wf_writeBlock hi.memory _ _), rfl⟩

/-- A loaded memory has 65536 words, so it is one in canonical form (R505). -/
theorem State.load_inv (hi : s.Inv) (r : Option Snapshot) : (s.load r).1.Inv ∧ (s.load r).1.params = s.params := by
  cases r with
  | none => exact ⟨hi, rfl⟩
  | some r =>
    unfold State.load
    dsimp only
    split_ifs with h
    · have hlen : r.memory.length = 65536 := by
        simp only [Snapshot.accepted, Bool.and_eq_true, decide_eq_true_eq] at h
        exact h.1.2
      have hmem : (Memory.ofWords r.memory).wf = true := Memory.wfFrom_ofWordsFrom 0 _ (by omega)
      exact ⟨⟨hi.params, hmem, hi.pending, hi.slotCount, hi.devices, hi.instances, hi.unpowered⟩, rfl⟩
    · exact ⟨hi, rfl⟩

/-! ## Power (R511) -/

theorem deviceWf_cancel {p : Parameters} {d : DeviceState} (h : deviceWf p d = true) :
    deviceWf p (deviceCancel d) = true := by
  cases d with
  | floppy f => exact floppyWf_cancel h
  | foreign f => rfl
  | clock c => exact h
  | keyboard k => exact h
  | display v => exact h

theorem slotWf_cancel {p : Parameters} {x : Slot} (h : slotWf p x = true) : slotWf p x.cancel = true := by
  cases x with
  | connected d => exact deviceWf_cancel (d := d.state) h
  | disconnected => rfl

theorem Slot.completing_cancel (x : Slot) : x.cancel.completing = false := by
  cases x with
  | disconnected => rfl
  | connected d =>
    cases hd : d.state with
    | floppy f => simp only [Slot.cancel, Slot.completing, hd, deviceCancel, floppyCancel_op, Option.isSome_none]
    | _ => simp only [Slot.cancel, Slot.completing, hd, deviceCancel]

theorem Slot.inst?_cancel (x : Slot) : x.cancel.inst? = x.inst? := by cases x <;> rfl

theorem allIdle_cancel (slots : List Slot) : (slots.map Slot.cancel).all (fun x => !x.completing) = true := by
  rw [allIdle_iff]
  intro x hx
  obtain ⟨y, -, rfl⟩ := List.mem_map.mp hx
  exact y.completing_cancel

theorem slotsWf_cancel {p : Parameters} {slots : List Slot} (h : slots.all (slotWf p) = true) :
    (slots.map Slot.cancel).all (slotWf p) = true := by
  rw [List.all_eq_true] at h ⊢
  intro x hx
  obtain ⟨y, hy, rfl⟩ := List.mem_map.mp hx
  exact slotWf_cancel (h y hy)

theorem State.powerOff_inv (hi : s.Inv) : s.powerOff.Inv where
  params := hi.params
  memory := hi.memory
  pending := hi.pending
  slotCount := by
    rw [State.powerOff, List.length_map]
    exact hi.slotCount
  devices := slotsWf_cancel hi.devices
  instances := by
    have hmap : (s.slots.map Slot.cancel).map Slot.inst? = s.slots.map Slot.inst? := by
      rw [List.map_map]
      exact List.map_congr_left fun x _ => x.inst?_cancel
    exact filterMap_inst?_eq hmap ▸ hi.instances
  unpowered := fun _ => allIdle_cancel s.slots

theorem State.powerOn_inv (hi : s.Inv) : s.powerOn.Inv :=
  ⟨hi.params, hi.memory, hi.pending, hi.slotCount, hi.devices, hi.instances, fun h => Bool.noConfusion h⟩

/-! ## Device code in a host action (R301, R309) -/

section
variable {h : Nat} {d : Device}

/-- An action of a reference device keeps the invariant, when the new local state is legal and no transfer starts on an
unpowered CPU. -/
theorem State.deviceAction_inv (hi : s.Inv) (hs : s.slots[h]? = some (.connected d)) (ds : DeviceState)
    (hwf : deviceWf s.params ds = true)
    (hidle : s.powered = false → Slot.completing (.connected { d with state := ds }) = false) (requests : List Word) :
    (s.deviceAction h d ds requests).Inv ∧ (s.deviceAction h d ds requests).params = s.params := by
  obtain ⟨hkeeps, hpending⟩ := State.deviceAction_keeps hs ds (fun _ _ => hwf) requests
  refine ⟨hkeeps.inv hi (hpending.trans hi.pending) fun hp => ?_, hkeeps.params⟩
  simp only [State.deviceAction, State.triggerAll_slots, State.setDeviceState_slots]
  exact allIdle_set (hi.unpowered hp) h (hidle hp)

/-- A run of the code of a device that is none of the four, with its new local words. -/
theorem State.foreignAction_inv (hi : s.Inv) (hs : s.slots[h]? = some (.connected d)) {f : ForeignState}
    (entry : DeviceEntry) :
    let r := foreignRun State.hostEvent entry f s
    (r.st.setDeviceState h d r.dev).Inv ∧ (r.st.setDeviceState h d r.dev).params = s.params := by
  obtain ⟨⟨hkeeps, hslots, hpending, -⟩, ls, hdev⟩ := foreignRun_host_keeps entry f s
  have hkeeps' := hkeeps.trans (Keeps.setDeviceState (hslots.symm ▸ hs) (.foreign { f with locals := ls }) fun _ _ => rfl)
  dsimp only
  rw [hdev]
  refine ⟨hkeeps'.inv hi (hpending.trans hi.pending) fun hp => ?_, hkeeps'.params⟩
  rw [State.setDeviceState_slots, hslots]
  exact allIdle_set (hi.unpowered hp) h rfl

end

/-! ## Connecting devices (R301, R302) -/

theorem deviceWf_kindReset {p : Parameters} (h : p.wf = true) (kind : DeviceKind) :
    deviceWf p (kindReset kind) = true := by
  obtain ⟨-, -, hblink, -, -, htracks, -, -⟩ := Parameters.wf_iff.mp h
  cases kind with
  | clock => rfl
  | keyboard => rfl
  | foreign => rfl
  | display => exact Bool.and_eq_true_iff.mpr ⟨rfl, decide_eq_true hblink⟩
  | floppy => exact (floppyWf_idle rfl).mpr ⟨htracks, rfl, by decide, rfl⟩

theorem completing_kindReset (n : Nat) (name : String) (ident : Identity) (kind : DeviceKind) :
    Slot.completing (.connected { inst := n, name := name, ident := ident, state := kindReset kind }) = false := by
  cases kind <;> rfl

theorem isInstance_iff (n : Nat) (x : Slot) : x.isInstance n = true ↔ x.inst? = some n := by
  cases x <;> simp [Slot.isInstance, Slot.inst?]

/-- A new device in a new slot keeps the invariant, when there is room for it, it is in a legal state without a transfer,
and it is connected nowhere. -/
theorem State.Inv.appendSlot (hi : s.Inv) {d : Device} (hroom : s.slots.length < Params.maxDevices)
    (hnew : s.slots.any (Slot.isInstance d.inst) = false) (hwf : deviceWf s.params d.state = true)
    (hidle : Slot.completing (.connected d) = false) : State.Inv { s with slots := s.slots ++ [.connected d] } where
  params := hi.params
  memory := hi.memory
  pending := hi.pending
  slotCount := by
    rw [List.length_append]
    exact hroom
  devices := by
    rw [List.all_append, hi.devices, Bool.true_and, List.all_cons, List.all_nil, Bool.and_true]
    exact hwf
  instances := by
    rw [List.filterMap_append, List.nodup_append]
    refine ⟨hi.instances, List.nodup_singleton _, fun n hn n' hn' e => ?_⟩
    obtain ⟨x, hx, hxn⟩ := List.mem_filterMap.mp hn
    obtain rfl : n' = d.inst := by simpa [Slot.inst?] using hn'
    rw [e, ← isInstance_iff] at hxn
    exact List.any_eq_false.mp hnew x hx hxn
  unpowered := fun hp => by
    rw [List.all_append, hi.unpowered hp, Bool.true_and, List.all_cons, hidle]
    rfl

/-- The connect callback of a device in its slot (R301, R303). -/
theorem State.connectCallback_inv (hi : s.Inv) {h : Nat} {d : Device} (hs : s.slots[h]? = some (.connected d)) :
    (s.connectCallback h d).Inv ∧ (s.connectCallback h d).params = s.params := by
  unfold State.connectCallback
  cases d.state with
  | foreign f => exact State.foreignAction_inv hi hs .connect
  | _ => exact ⟨hi, rfl⟩

theorem State.connect_inv {inst : Nat} {name : String} {kind : DeviceKind} (hi : s.Inv)
    (h : s.connect inst name kind = .next t) : t.Inv ∧ t.params = s.params := by
  unfold State.connect at h
  split_ifs at h with hfull hconnected
  cases h
  have hi' := hi.appendSlot
    (d := { inst := inst, name := name, ident := kindIdentity s.params kind, state := kindReset kind })
    (Nat.not_le.mp hfull) (Bool.eq_false_iff.mpr hconnected) (deviceWf_kindReset hi.params kind)
    (completing_kindReset _ _ _ _)
  exact State.connectCallback_inv hi' List.getElem?_concat_length

theorem filterMap_inst?_disconnect_sublist (slots : List Slot) (h : Nat) :
    ((slots.set h .disconnected).filterMap Slot.inst?).Sublist (slots.filterMap Slot.inst?) := by
  induction slots generalizing h with
  | nil => exact List.Sublist.refl _
  | cons x slots ih =>
    have hcons (l l' : List Slot) (hl : (l.filterMap Slot.inst?).Sublist (l'.filterMap Slot.inst?)) (y : Slot) :
        ((y :: l).filterMap Slot.inst?).Sublist ((y :: l').filterMap Slot.inst?) := by
      cases y with
      | connected d => exact hl.cons_cons d.inst
      | disconnected => exact hl
    cases h with
    | zero =>
      cases x with
      | connected d => exact (List.Sublist.refl _).cons d.inst
      | disconnected => exact List.Sublist.refl _
    | succ h => exact hcons _ _ (ih h) x

/-- The placeholder in place of a device keeps the invariant: a device is gone and none is new (R302). -/
theorem State.Inv.disconnectSlot (hi : s.Inv) (h : Nat) : State.Inv { s with slots := s.slots.set h .disconnected } where
  params := hi.params
  memory := hi.memory
  pending := hi.pending
  slotCount := by
    rw [List.length_set]
    exact hi.slotCount
  devices := by
    rw [List.all_eq_true]
    intro x hx
    obtain hx | rfl := List.mem_or_eq_of_mem_set hx
    · exact List.all_eq_true.mp hi.devices x hx
    · rfl
  instances := hi.instances.sublist (filterMap_inst?_disconnect_sublist s.slots h)
  unpowered := fun hp => allIdle_set (hi.unpowered hp) h rfl

theorem State.disconnect_inv {h : Nat} (hi : s.Inv) (hd : s.disconnect h = .next t) : t.Inv ∧ t.params = s.params := by
  unfold State.disconnect at hd
  split at hd
  next => cases hd
  next =>
    cases hd
    exact ⟨hi, rfl⟩
  next =>
    cases hd
    exact ⟨hi.disconnectSlot h, rfl⟩

/-! ## Time (R309) -/

/-- An update of the floppy copies at most one sector into memory, which stays canonical (R415). -/
theorem wf_floppyUpdate (p : Parameters) (d : FloppyState) (dt : Rat) {m : Memory} (h : m.wf = true) :
    (floppyUpdate p d dt m).mem.wf = true := by
  unfold floppyUpdate
  cases d.op with
  | none => exact h
  | some op =>
    dsimp only
    split_ifs
    · exact h
    · unfold floppyCopy
      split
      · exact h
      · exact Memory.wf_writeBlock h _ _
      · exact h

/-- The update of a controller with no transfer, as on an unpowered CPU, starts none and leaves the memory alone (R415). -/
theorem floppyUpdate_of_idle {p : Parameters} {d : FloppyState} (h : d.op = none) (dt : Rat) (m : Memory) :
    floppyUpdate p d dt m = { dev := d, mem := m, requests := [] } := by
  simp only [floppyUpdate, h]

/-- On an unpowered CPU a floppy in a slot has no transfer (R511). -/
theorem State.Inv.op_of_unpowered (hi : s.Inv) (hp : s.powered = false) {h : Nat} {d : Device}
    (hs : s.slots[h]? = some (.connected d)) {f : FloppyState} (hd : d.state = .floppy f) : f.op = none := by
  have hx := allIdle_iff.mp (hi.unpowered hp) _ (List.mem_of_getElem? hs)
  simpa [Slot.completing, hd] using hx

theorem State.keepIfPowered_of_powered (hp : s.powered = true) (u : State) : s.keepIfPowered u = u := if_pos hp

theorem State.keepIfPowered_of_unpowered (hp : s.powered = false) (u : State) :
    s.keepIfPowered u = { s with slots := u.slots } := by
  rw [State.keepIfPowered, hp]
  exact if_neg Bool.false_ne_true

section
variable {h : Nat} {d : Device} {dt : Rat}

/-- An update of a floppy with a transfer copies into the memory of a powered CPU only (R415, R511). -/
theorem State.updateFloppy_inv (hi : s.Inv) (hs : s.slots[h]? = some (.connected d)) {f : FloppyState}
    (hd : d.state = .floppy f) :
    let r := floppyUpdate s.params f dt s.mem
    let u := s.keepIfPowered (State.deviceAction { s with mem := r.mem } h d (.floppy r.dev) r.requests)
    u.Inv ∧ u.params = s.params := by
  have hwf : floppyWf s.params f = true := by
    have := hi.legalDevice hs
    rwa [hd] at this
  obtain hp | hp := Bool.eq_false_or_eq_true s.powered
  · simp only [State.keepIfPowered_of_powered hp]
    exact State.deviceAction_inv (hi.setMem (wf_floppyUpdate s.params f dt hi.memory)) hs (.floppy _)
      (floppyWf_update hwf dt s.mem) (fun hoff => absurd (hp.symm.trans hoff) (by decide)) _
  · have hop := hi.op_of_unpowered hp hs hd
    have hself : { d with state := DeviceState.floppy f } = d := by rw [← hd]
    have hset : s.slots.set h (.connected d) = s.slots := by
      obtain ⟨hlt, hget⟩ := List.getElem?_eq_some_iff.mp hs
      rw [← hget]
      exact List.set_getElem_self hlt
    have hslots : (State.deviceAction s h d (.floppy f) []).slots = s.slots := by
      rw [State.deviceAction, State.triggerAll_slots, State.setDeviceState_slots, hself, hset]
    simp only [floppyUpdate_of_idle hop, State.keepIfPowered_of_unpowered hp, hslots, and_true]
    exact hi

theorem State.updateDevice_inv (hi : s.Inv) (hs : s.slots[h]? = some (.connected d)) (hdt : 0 ≤ dt) :
    (s.updateDevice h d dt).Inv ∧ (s.updateDevice h d dt).params = s.params := by
  have hwf := hi.legalDevice hs
  unfold State.updateDevice
  split
  next c hd =>
    rw [hd] at hwf
    exact State.deviceAction_inv hi hs (.clock _) (clockWf_update hi.params hwf hdt) (fun _ => rfl) _
  next => exact ⟨hi, rfl⟩
  next v hd =>
    rw [hd] at hwf
    exact State.deviceAction_inv hi hs (.display _) (displayWf_update hi.params hwf hdt) (fun _ => rfl) _
  next f hd => exact State.updateFloppy_inv hi hs hd
  next f hd =>
    split
    · exact State.foreignAction_inv hi hs (.update dt)
    · exact ⟨hi, rfl⟩

theorem State.update_inv (hi : s.Inv) (hu : s.update h dt = .next t) : t.Inv ∧ t.params = s.params := by
  unfold State.update at hu
  split at hu
  next => cases hu
  next hdt =>
    split at hu
    next => cases hu
    next =>
      cases hu
      exact ⟨hi, rfl⟩
    next d hs =>
      cases hu
      exact State.updateDevice_inv hi hs (not_lt.mp hdt)

end

/-! ## Keys and media (R352, R416, R417) -/

section
variable {h : Nat}

theorem State.pressKey_inv {k : Word} (hi : s.Inv) (hk : s.pressKey h k = .next t) : t.Inv ∧ t.params = s.params := by
  unfold State.pressKey at hk
  split at hk
  next => cases hk
  next => cases hk
  next d hs =>
    split at hk
    next kb hd =>
      cases hk
      have hwf := hi.legalDevice hs
      rw [hd] at hwf
      exact State.deviceAction_inv hi hs (.keyboard (keyDown kb k).1) (risingCodes_insertCode hwf k) (fun _ => rfl) _
    all_goals cases hk

theorem State.releaseKey_inv {k : Word} (hi : s.Inv) (hk : s.releaseKey h k = .next t) : t.Inv ∧ t.params = s.params := by
  unfold State.releaseKey at hk
  split at hk
  next => cases hk
  next => cases hk
  next d hs =>
    split at hk
    next kb hd =>
      cases hk
      have hwf := hi.legalDevice hs
      rw [hd] at hwf
      exact State.deviceAction_inv hi hs (.keyboard (keyUp kb k)) (risingCodes_removeCode hwf k) (fun _ => rfl) _
    all_goals cases hk

theorem State.insertMedium_inv {m : Medium} (hi : s.Inv) (hm : s.insertMedium h m = .next t) :
    t.Inv ∧ t.params = s.params := by
  unfold State.insertMedium at hm
  split at hm
  next => cases hm
  next => cases hm
  next d hs =>
    split at hm
    next f hd =>
      split_ifs at hm with hpresent hmalformed
      cases hm
      have hwf := hi.legalDevice hs
      rw [hd] at hwf
      have hempty : f.medium = none := by simpa using hpresent
      have hmedium : mediumWf s.params m = true := by simpa using hmalformed
      refine State.deviceAction_inv hi hs (.floppy _) (floppyWf_insert hwf hempty hmedium) (fun hp => ?_) _
      exact congrArg Option.isSome (hi.op_of_unpowered hp hs hd)
    all_goals cases hm

theorem floppyEject_op (f : FloppyState) : (floppyEject f).1.op = none := by
  unfold floppyEject
  split
  · rfl
  · assumption

theorem State.ejectMedium_inv (hi : s.Inv) (hm : s.ejectMedium h = .next t) : t.Inv ∧ t.params = s.params := by
  unfold State.ejectMedium at hm
  split at hm
  next => cases hm
  next => cases hm
  next d hs =>
    split at hm
    next f hd =>
      split_ifs at hm
      cases hm
      have hwf := hi.legalDevice hs
      rw [hd] at hwf
      exact State.deviceAction_inv hi hs (.floppy _) (floppyWf_eject hwf)
        (fun _ => congrArg Option.isSome (floppyEject_op f)) _
    all_goals cases hm

end

/-! ## The table of host actions (R512) -/

theorem answer_next {o : Host.Outcome State Fault Refusal} {reply : State → Reply} {r : Reply}
    (h : answer o reply = .next (t, r)) : o = .next t := by
  unfold answer at h
  split at h
  next =>
    cases h
    rfl
  next => cases h
  next => cases h

theorem hostAct_inv {act : HostAction} {r : Reply} (hi : s.Inv) (h : hostAct act s = .next (t, r)) :
    t.Inv ∧ t.params = s.params := by
  cases act with
  | construct =>
    cases h
    exact ⟨State.construct_inv hi.params, rfl⟩
  | connect inst name kind => exact State.connect_inv hi (answer_next h)
  | disconnect k => exact State.disconnect_inv hi (answer_next h)
  | loadImage bytes => exact State.loadImage_inv hi (answer_next h)
  | execute budget => exact State.execute_inv hi (answer_next h)
  | interrupt m =>
    cases h
    exact ⟨State.trigger_inv hi m, s.trigger_params m⟩
  | isHalted | isPendingWakeUp | isOnFire | save =>
    cases h
    exact ⟨hi, rfl⟩
  | load r =>
    cases h
    exact State.load_inv hi r
  | powerOff =>
    cases h
    exact ⟨State.powerOff_inv hi, rfl⟩
  | powerOn =>
    cases h
    exact ⟨State.powerOn_inv hi, rfl⟩
  | update k dt => exact State.update_inv hi (answer_next h)
  | keyDown k w => exact State.pressKey_inv hi (answer_next h)
  | keyUp k w => exact State.releaseKey_inv hi (answer_next h)
  | insert k m => exact State.insertMedium_inv hi (answer_next h)
  | eject k => exact State.ejectMedium_inv hi (answer_next h)
  | pixel k x y =>
    simp only [hostAct] at h
    split at h
    next =>
      split_ifs at h
      cases h
      exact ⟨hi, rfl⟩
    next => cases h
  | border k =>
    simp only [hostAct] at h
    split at h
    next =>
      cases h
      exact ⟨hi, rfl⟩
    next => cases h

end Sys2Proof.Machine

namespace Sys2Proof

open Machine

/-- Settles O60: at a boundary a host call is the action itself, one lemma for each row of the table. -/
theorem hostActionsKeepInvariant : Obligations.HostActionsKeepInvariant :=
  fun _ _ _ _ hi h => hostAct_inv hi h

end Sys2Proof
end

section
/-! PROOFS. Arithmetic and shifts: the results of DVI, MDI, ADX, SBX, SHR, ASR and SHL (41_arithmetic.md R196, R198 to
R200, 42_bitwise_shift.md R233 to R236). -/

namespace Sys2Proof.Machine

/-! ## Signed division and the sums with EX as operations on words (R196, R198 to R200) -/

/-- The quotient of the signed readings, rounded toward 0 (R196). -/
theorem trunc16_sint_tdiv (bv av : Word) : trunc16 ((sint bv).tdiv (sint av)) = bv.sdiv av := by
  apply BitVec.eq_of_toInt_eq
  rw [trunc16, BitVec.toInt_ofInt, BitVec.toInt_sdiv, sint_eq_toInt, sint_eq_toInt]

theorem dviFlags_eq (bv av : Word) :
    dviFlags bv av = (if av = 0#16 then 0 else bv.sdiv av,
      if av = 0#16 then 0 else BitVec.ofInt 16 ((bv.toInt * 65536).tdiv av.toInt)) := by
  unfold dviFlags
  split_ifs
  · rfl
  · rw [trunc16_sint_tdiv, sint_eq_toInt, sint_eq_toInt, trunc16]

/-- MDI's remainder, which the rule writes as the dividend less divisor times quotient, has the sign of b (R198). -/
theorem mdiResult_eq (bv av : Word) : mdiResult bv av = if av = 0#16 then 0 else bv.srem av := by
  unfold mdiResult
  split_ifs
  · rfl
  · rw [← Int.tmod_def, ← trunc16_sint (bv.srem av), sint_eq_toInt, sint_eq_toInt, sint_eq_toInt, BitVec.toInt_srem]

theorem adxFlags_eq (bv av ex : Word) :
    adxFlags bv av ex = (bv + av + ex, if 0xFFFF < bv.toNat + av.toNat + ex.toNat then 1 else 0) := by
  have hcarry : uint bv + uint av + uint ex > 0xFFFF ↔ 0xFFFF < bv.toNat + av.toNat + ex.toNat := by
    simp only [uint]
    omega
  simp only [adxFlags, trunc16_add, trunc16_uint, hcarry]

/-- Both readings of EX give the same difference, as they agree modulo 65536 (R200, D9). -/
theorem sbxFlags_eq (exSigned : Bool) (bv av ex : Word) :
    let diff := (bv.toNat : Int) - av.toNat + (if exSigned then ex.toInt else ex.toNat)
    sbxFlags exSigned bv av ex = (bv - av + ex, if diff < 0 then 0xFFFF else if 0xFFFF < diff then 1 else 0) := by
  cases exSigned
  · simp only [sbxFlags, trunc16_add, trunc16_sub, trunc16_uint, Bool.false_eq_true, if_false]
    rfl
  · simp only [sbxFlags, trunc16_add, trunc16_sub, trunc16_uint, trunc16_sint, if_true, ← sint_eq_toInt]
    rfl

/-! ## Shifts as shifts of bit vectors (R233 to R235) -/

/-- Narrowing the unsigned value of a wider bit vector keeps its low word. -/
theorem trunc16_toNat {w : Nat} (x : BitVec w) : trunc16 (x.toNat : Int) = x.setWidth 16 := by
  rw [trunc16_natCast, BitVec.ofNat_toNat]

/-- So does narrowing its signed value. -/
theorem trunc16_toInt (x : BitVec 32) : trunc16 x.toInt = x.setWidth 16 := by
  apply BitVec.eq_of_toNat_eq
  have := x.isLt
  simp only [trunc16, BitVec.toNat_ofInt, BitVec.toNat_setWidth, BitVec.toInt]
  split_ifs <;> omega

theorem toNat_setWidth_shiftLeft_16 (bv : Word) : (bv.setWidth 32 <<< 16).toNat = bv.toNat * 65536 := by
  have := bv.isLt
  simp only [BitVec.toNat_shiftLeft, BitVec.toNat_setWidth, Nat.shiftLeft_eq]
  omega

theorem toInt_signExtend_shiftLeft_16 (bv : Word) : (bv.signExtend 32 <<< 16).toInt = bv.toInt * 65536 := by
  have h1 := bv.toInt_lt
  have h2 := bv.le_toInt
  have hofInt : bv.signExtend 32 <<< 16 = BitVec.ofInt 32 (bv.toInt * 65536) := by
    rw [BitVec.ofInt_mul, BitVec.shiftLeft_eq_mul_twoPow]
    rfl
  rw [hofInt, BitVec.toInt_ofInt_eq_self (by decide) (by omega) (by omega)]

/-- SHR, both words as shifts of bit vectors (R233). -/
theorem shrFlags_eq (bv av : Word) :
    shrFlags bv av = (bv >>> av.toNat, ((bv.setWidth 32 <<< 16) >>> av.toNat).setWidth 16) := by
  rw [shrFlags, ← toNat_setWidth_shiftLeft_16, ← BitVec.toNat_ushiftRight, ← BitVec.toNat_ushiftRight, trunc16_toNat,
    trunc16_toNat, BitVec.setWidth_eq]

/-- A division by a power of two that rounds down is the arithmetic shift. -/
theorem fdiv_two_pow (x : Int) (n : Nat) : x.fdiv ((2 ^ n : Nat) : Int) = x >>> n := by
  rw [Int.fdiv_eq_ediv_of_nonneg _ (Int.natCast_nonneg _), Int.shiftRight_eq_div_pow]

/-- ASR, both words as arithmetic shifts of bit vectors (R234). -/
theorem asrFlags_eq (bv av : Word) :
    asrFlags bv av =
      (bv.sshiftRight av.toNat, ((bv.signExtend 32 <<< 16).sshiftRight av.toNat).setWidth 16) := by
  rw [asrFlags, fdiv_two_pow, fdiv_two_pow, sint_eq_toInt, ← toInt_signExtend_shiftLeft_16, ← BitVec.toInt_sshiftRight,
    ← BitVec.toInt_sshiftRight, trunc16_toInt, ← sint_eq_toInt, trunc16_sint]

/-- SHL, both words as shifts of bit vectors (R235). -/
theorem shlFlags_eq (bv av : Word) :
    shlFlags bv av = (bv <<< av.toNat, ((bv.setWidth 32 <<< av.toNat) >>> 16).setWidth 16) := by
  have hwide : bv.toNat % 2 ^ 32 = bv.toNat := Nat.mod_eq_of_lt (by omega)
  simp only [shlFlags, trunc16_natCast, ← Nat.shiftLeft_eq]
  refine Prod.ext rfl (BitVec.eq_of_toNat_eq ?_)
  simp only [BitVec.toNat_ofNat, BitVec.toNat_setWidth, BitVec.toNat_ushiftRight, BitVec.toNat_shiftLeft, hwide,
    Nat.shiftRight_eq_div_pow]
  generalize bv.toNat <<< av.toNat = shifted
  omega

/-! ## Long shifts (R236) -/

/-- A shift right by as many places as a number has, or more, leaves its sign. -/
theorem fdiv_two_pow_of_lt {x : Int} {k n : Nat} (hlo : -(2 ^ k : Int) ≤ x) (hhi : x < 2 ^ k) (hkn : k ≤ n) :
    x.fdiv ((2 ^ n : Nat) : Int) = if x < 0 then -1 else 0 := by
  have hpow : (2 ^ k : Int) ≤ ((2 ^ n : Nat) : Int) := by exact_mod_cast Nat.pow_le_pow_right (by decide) hkn
  have hpos : (0 : Int) < ((2 ^ n : Nat) : Int) := by positivity
  rw [Int.fdiv_eq_ediv_of_nonneg _ hpos.le]
  split_ifs with hneg
  · rw [Int.ediv_eq_iff_of_pos hpos]
    omega
  · exact Int.ediv_eq_zero_of_lt (not_lt.mp hneg) (hhi.trans_le hpow)

/-- What ASR leaves of a negative and of any other value when every bit is shifted out. -/
def signWord (bv : Word) : Word := if bv.toInt < 0 then 0xFFFF else 0

theorem asrFlags_fst_long {bv av : Word} (h : 16 ≤ av.toNat) : (asrFlags bv av).1 = signWord bv := by
  have hlo := bv.le_toInt
  have hhi := bv.toInt_lt
  rw [asrFlags, sint_eq_toInt, fdiv_two_pow_of_lt hlo hhi (by omega), signWord]
  split_ifs <;> rfl

theorem asrFlags_snd_long {bv av : Word} (h : 32 ≤ av.toNat) : (asrFlags bv av).2 = signWord bv := by
  have hlo := bv.le_toInt
  have hhi := bv.toInt_lt
  have hsign : bv.toInt * 65536 < 0 ↔ bv.toInt < 0 := by omega
  change trunc16 ((sint bv * 65536).fdiv _) = _
  rw [sint_eq_toInt, fdiv_two_pow_of_lt (k := 31) (by omega) (by omega) (by omega), signWord]
  simp only [hsign]
  split_ifs <;> rfl

theorem shrFlags_fst_long {bv av : Word} (h : 16 ≤ av.toNat) : (shrFlags bv av).1 = 0 := by
  rw [shrFlags_eq]
  exact BitVec.ushiftRight_eq_zero h

theorem shrFlags_snd_long {bv av : Word} (h : 32 ≤ av.toNat) : (shrFlags bv av).2 = 0 := by
  rw [shrFlags_eq, BitVec.ushiftRight_eq_zero h]
  rfl

theorem shlFlags_fst_long {bv av : Word} (h : 16 ≤ av.toNat) : (shlFlags bv av).1 = 0 := by
  rw [shlFlags_eq]
  exact BitVec.shiftLeft_eq_zero h

theorem shlFlags_snd_long {bv av : Word} (h : 32 ≤ av.toNat) : (shlFlags bv av).2 = 0 := by
  rw [shlFlags_eq, BitVec.shiftLeft_eq_zero h]
  rfl

/-- A shift by exactly 16 places moves b whole into EX. -/
theorem shiftFlags_snd_16 {bv av : Word} (h : av.toNat = 16) :
    (shrFlags bv av).2 = bv ∧ (shlFlags bv av).2 = bv ∧ (asrFlags bv av).2 = bv := by
  have hnat : (bv.toNat * 65536) >>> 16 = bv.toNat := by
    rw [Nat.shiftRight_eq_div_pow]
    exact Nat.mul_div_cancel _ (by decide)
  refine ⟨?shr, ?shl, ?asr⟩
  case shr =>
    simp only [shrFlags, h, hnat]
    exact trunc16_uint bv
  case shl =>
    simp only [shlFlags, h, Nat.reducePow, hnat]
    exact trunc16_uint bv
  case asr =>
    rw [asrFlags, h]
    change trunc16 ((sint bv * 65536).fdiv 65536) = bv
    rw [Int.mul_fdiv_cancel _ (by decide), trunc16_sint]

/-- On a value that is not negative, ASR is SHR (R234). -/
theorem asrFlags_of_nonneg {bv av : Word} (h : 0 ≤ bv.toInt) : asrFlags bv av = shrFlags bv av := by
  have hnat : sint bv = (bv.toNat : Int) := by
    rw [sint_eq_toInt]
    exact BitVec.toInt_eq_toNat_of_msb (by simpa [BitVec.msb_eq_toInt] using h)
  have hwide : (bv.toNat : Int) * 65536 = ((bv.toNat * 65536 : Nat) : Int) := rfl
  simp only [asrFlags, shrFlags, hnat, hwide, trunc16_fdiv_natCast, trunc16_natCast, Nat.shiftRight_eq_div_pow]

/-! ## Each instruction as an instance of its template (R151) -/

section
variable (b : DstOperand) (a : SrcOperand) (s : State)

theorem exec_mdi : exec (.mdi b a) s = storeResult 3 mdiResult b a s := rfl

theorem exec_adx : exec (.adx b a) s = storeResultEx 3 adxFlags b a s := rfl

theorem exec_sbx : exec (.sbx b a) s = storeResultEx 3 (sbxFlags s.params.sbxExSigned) b a s := rfl

theorem exec_shr : exec (.shr b a) s = storeResultEx 1 (fun bv av _ => shrFlags bv av) b a s := rfl

theorem exec_asr : exec (.asr b a) s = storeResultEx 1 (fun bv av _ => asrFlags bv av) b a s := rfl

theorem exec_shl : exec (.shl b a) s = storeResultEx 1 (fun bv av _ => shlFlags bv av) b a s := rfl

/-- DVI is its template but for the one pair that DVI_OVERFLOW = fault refuses (R196, D10). -/
theorem exec_dvi_of_not_refused (h : ¬ Claims.dviRefused s (resolve b a s).bv (resolve b a s).av) :
    exec (.dvi b a) s = storeResultEx 3 (fun bv av _ => dviFlags bv av) b a s :=
  (execDvi_cases b a s).2 h

theorem exec_dvi_of_refused (h : Claims.dviRefused s (resolve b a s).bv (resolve b a s).av) :
    exec (.dvi b a) s = .refused .dviOverflow :=
  (execDvi_cases b a s).1 h

end

end Sys2Proof.Machine

namespace Sys2Proof

open Machine Claims

/-- Settles O14: the signed quotient and remainder, and -32768 by -1 as the one pair that the parameter may refuse. -/
theorem dviMdiResults : Obligations.DviMdiResults := by
  refine fun b a s => ⟨rfl, rfl, fun h => ?dvi, fun hp hb ha => ?corner, fun h => exec_dvi_of_refused b a s h, ?mdi⟩
  case dvi => simp only [exec_dvi_of_not_refused b a s h, storeResultEx, dviFlags_eq]
  case corner =>
    have h : ¬ dviRefused s (resolve b a s).bv (resolve b a s).av := fun h => by
      obtain ⟨hfault, -⟩ := h
      rw [hp] at hfault
      cases hfault
    have hflags : dviFlags 0x8000#16 0xFFFF#16 = (0x8000, 0) := by decide
    simp only [exec_dvi_of_not_refused b a s h, storeResultEx, hb, ha, hflags]
  case mdi => simp only [exec_mdi, storeResult, mdiResult_eq]

/-- Settles O15, from the sum with its carry and the difference with its borrow or carry. -/
theorem adxSbxResults : Obligations.AdxSbxResults := by
  refine fun b a s => ⟨rfl, rfl, ?adx, ?sbx⟩
  case adx => simp only [exec_adx, storeResultEx, adxFlags_eq]
  case sbx => simp only [exec_sbx, storeResultEx, sbxFlags_eq]

/-- Settles O17, from the three shifts as shifts of bit vectors. -/
theorem shiftResults : Obligations.ShiftResults := by
  refine fun b a s => ⟨rfl, rfl, rfl, ?shr, ?asr, ?shl⟩
  case shr => simp only [exec_shr, storeResultEx, shrFlags_eq]
  case asr => simp only [exec_asr, storeResultEx, asrFlags_eq]
  case shl => simp only [exec_shl, storeResultEx, shlFlags_eq]

/-- Settles O18: a long shift leaves 0 or the sign; by 16 places b moves into EX; ASR of a non-negative value is SHR. -/
theorem longShifts : Obligations.LongShifts := by
  refine fun bv av => ⟨fun h => ?_, fun h => ?_, fun h => shiftFlags_snd_16 h, fun h => asrFlags_of_nonneg h⟩
  · exact ⟨shrFlags_fst_long h, shlFlags_fst_long h, asrFlags_fst_long h⟩
  · exact ⟨shrFlags_snd_long h, shlFlags_snd_long h, asrFlags_snd_long h⟩

end Sys2Proof
end

section
/-! PROOFS. Frames of the basic instructions: what the templates leave alone, a literal destination, the conditionals and
their endless skip (30_encoding.md R109, 40_execution.md R144 to R154, 43_conditional.md R250). -/

namespace Sys2Proof.Machine

open Claims

/-! ## The state that resolving the operands leaves (R142, R146 to R148) -/

section
variable (b : DstOperand) (a : SrcOperand) (s : State)

theorem srcAfter_sp_eq : (srcAfter s a).sp = spAfterSrc a s.sp := by
  rw [srcAfter_sp, spAfterSrc]
  split_ifs
  · rfl
  · rw [BitVec.add_zero]

theorem srcAfter_pc_eq : (srcAfter s a).pc = pcAfterSrc a s.pc := srcAfter_pc s a

theorem resolve_st_sp : (resolve b a s).st.sp = spAfter b a s.sp := by
  rw [resolve_st, dstAfter_sp, srcAfter_sp_eq, spAfter, spAfterSrc]
  split_ifs
  · rfl
  · rfl
  · rw [BitVec.sub_zero]
  · rw [BitVec.sub_zero]

theorem resolve_st_pc : (resolve b a s).st.pc = pcAfter b a s.pc := by
  rw [resolve_st, dstAfter_pc, srcAfter_pc, pcAfter]

theorem resolve_st_gen : (resolve b a s).st.gen = s.gen := by
  rw [resolve_st, dstAfter_gen, srcAfter_gen]

theorem resolve_st_ex : (resolve b a s).st.ex = s.ex := by
  rw [resolve_st, dstAfter_ex, srcAfter_ex]

theorem resolve_st_mem : (resolve b a s).st.mem = s.mem := by
  rw [resolve_st, dstAfter_mem, srcAfter_mem]

theorem controlUnchanged_resolve : controlUnchanged s (resolve b a s).st := by
  simp [controlUnchanged]

end

section
variable {s t u : State}

theorem controlUnchanged_trans (h : controlUnchanged s t) (h' : controlUnchanged t u) : controlUnchanged s u := by
  obtain ⟨h1, h2, h3, h4, h5, h6, h7, h8, h9⟩ := h
  obtain ⟨k1, k2, k3, k4, k5, k6, k7, k8, k9⟩ := h'
  exact ⟨k1.trans h1, k2.trans h2, k3.trans h3, k4.trans h4, k5.trans h5, k6.trans h6, k7.trans h7, k8.trans h8,
    k9.trans h9⟩

theorem controlUnchanged_writeLoc (u : State) (l : Loc) (v : Word) (n : Nat) :
    controlUnchanged u ((u.writeLoc l v).charge n) := by
  simp [controlUnchanged]

/-- A write to a location, after which the cost is charged, writes that location only. -/
theorem onlyWrites_writeLoc (hgen : u.gen = s.gen) (hmem : u.mem = s.mem) (l : Loc) (v : Word) (n : Nat) :
    onlyWrites l u.sp u.pc s ((u.writeLoc l v).charge n) := by
  refine ⟨fun r hr => ?reg, fun hl => u.writeLoc_sp_ne l v hl, fun hl => u.writeLoc_pc_ne l v hl, fun addr hl => ?mem⟩
  case reg => exact (u.writeLoc_reg_ne l v hr).trans (by rw [hgen])
  case mem => exact (u.writeLoc_read_ne l v hl).trans (by rw [hmem, State.read])

end

/-! ## The frames of the templates (R149, R151) -/

section
variable {b : DstOperand} {a : SrcOperand} {s t : State}

theorem storeResult_frame {base : Nat} {f : Word → Word → Word} (h : storeResult base f b a s = .next t) :
    let l := (resolve b a s).bloc
    onlyWrites l (spAfter b a s.sp) (pcAfter b a s.pc) s t ∧ (l ≠ .ex → t.ex = s.ex) ∧ controlUnchanged s t := by
  cases h
  rw [← resolve_st_sp, ← resolve_st_pc]
  refine ⟨onlyWrites_writeLoc (resolve_st_gen b a s) (resolve_st_mem b a s) _ _ _, fun hl => ?ex,
    controlUnchanged_trans (controlUnchanged_resolve b a s) (controlUnchanged_writeLoc _ _ _ _)⟩
  case ex => exact (State.writeLoc_ex_ne _ _ _ hl).trans (resolve_st_ex b a s)

theorem storeResultEx_next {base : Nat} {f : Word → Word → Word → Word × Word}
    (h : storeResultEx base f b a s = .next t) :
    ∃ ex v n, t = (((resolve b a s).st.setEx ex).writeLoc (resolve b a s).bloc v).charge n := by
  cases h
  exact ⟨_, _, _, rfl⟩

theorem storeResultEx_frame {base : Nat} {f : Word → Word → Word → Word × Word}
    (h : storeResultEx base f b a s = .next t) :
    onlyWrites (resolve b a s).bloc (spAfter b a s.sp) (pcAfter b a s.pc) s t ∧ controlUnchanged s t := by
  obtain ⟨ex, v, n, rfl⟩ := storeResultEx_next h
  rw [← resolve_st_sp, ← resolve_st_pc]
  exact ⟨onlyWrites_writeLoc (u := (resolve b a s).st.setEx ex) (resolve_st_gen b a s) (resolve_st_mem b a s) _ _ _,
    controlUnchanged_trans (controlUnchanged_resolve b a s) (controlUnchanged_writeLoc _ _ _ _)⟩

/-- STI and STD: the frame of the copy, and then I and J. -/
theorem storeAndStep_frame {d : Word} (h : storeAndStep d b a s = .next t) :
    let l := (resolve b a s).bloc
    (∀ r, r ≠ .i → r ≠ .j → l ≠ .reg r → readReg t.gen r = readReg s.gen r) ∧
      (l ≠ .sp → t.sp = spAfter b a s.sp) ∧ (l ≠ .pc → t.pc = pcAfter b a s.pc) ∧ (l ≠ .ex → t.ex = s.ex) ∧
      (∀ addr, l ≠ .mem addr → t.read addr = s.read addr) ∧ controlUnchanged s t := by
  obtain ⟨⟨hreg, hsp, hpc, hmem⟩, hex, hcontrol⟩ :=
    storeResult_frame (base := 0) (f := fun _ av => av) (b := b) (a := a) (s := s) rfl
  rw [storeAndStep_eq] at h
  cases h
  refine ⟨fun r hi hj hl => Eq.trans ?_ (hreg r hl), hsp, hpc, hex, hmem, hcontrol⟩
  cases r with
  | i => exact absurd rfl hi
  | j => exact absurd rfl hj
  | _ => rfl

/-- A conditional that runs on changes PC and the cycles only, in the state that its operands leave (R250, R154). -/
theorem conditional_next {test : Word → Word → Bool} (h : conditional test b a s = .next t) :
    ∃ q n, t = ((resolve b a s).st.setPc q).charge n := by
  simp only [conditional] at h
  split at h
  next =>
    cases h
    exact ⟨_, _, rfl⟩
  next =>
    split at h
    next =>
      cases h
      exact ⟨_, _, rfl⟩
    next => cases h

/-- A failed conditional is stuck exactly when the search for the end of its skip has no answer (R154). -/
theorem conditional_stuck_iff {test : Word → Word → Bool} (h : test (resolve b a s).bv (resolve b a s).av = false) :
    conditional test b a s = .fault .endlessSkip ↔ (resolve b a s).st.skip = none := by
  simp only [conditional, h, Bool.false_eq_true, if_false]
  cases (resolve b a s).st.skip <;> simp

end

theorem State.skip_eq_none (s : State) : s.skip = none ↔ ∀ q k, ¬ SkipsTo s.mem s.pc q k := by
  simp only [← State.skip_eq_some, Option.eq_none_iff_forall_ne_some, Prod.forall, ne_eq]

/-- A skip ends at an instruction that is no conditional. -/
theorem not_skipsTo_of_all_conditional {m : Memory} (h : ∀ addr, isConditionalWord (m.read addr) = true) (pc q : Word)
    (k : Nat) : ¬ SkipsTo m pc q k := by
  intro hskip
  obtain ⟨-, -, hlast⟩ := hskip.chain
  exact Bool.false_ne_true (hlast.symm.trans (h _))

/-! ## Each instruction of the lists as an instance of its template (R151) -/

section
variable {f : DstOperand → SrcOperand → Instr}

theorem exec_of_mem_plainStores (hf : f ∈ plainStores) : ∃ base g, ∀ b a s, exec (f b a) s = storeResult base g b a s := by
  simp only [plainStores, List.mem_cons, List.not_mem_nil, or_false] at hf
  obtain rfl | rfl | rfl | rfl | rfl | rfl := hf
  · exact ⟨_, _, exec_set⟩
  · exact ⟨_, _, exec_mod⟩
  · exact ⟨_, _, exec_mdi⟩
  · exact ⟨_, _, exec_and⟩
  · exact ⟨_, _, exec_bor⟩
  · exact ⟨_, _, exec_xor⟩

theorem exec_of_mem_exStores (hf : f ∈ exStores) (b : DstOperand) (a : SrcOperand) (s : State)
    (h : ¬ (f = Instr.dvi ∧ dviRefused s (resolve b a s).bv (resolve b a s).av)) :
    ∃ base g, exec (f b a) s = storeResultEx base g b a s := by
  simp only [exStores, List.mem_cons, List.not_mem_nil, or_false] at hf
  obtain rfl | rfl | rfl | rfl | rfl | rfl | rfl | rfl | rfl | rfl | rfl := hf
  · exact ⟨_, _, exec_add b a s⟩
  · exact ⟨_, _, exec_sub b a s⟩
  · exact ⟨_, _, exec_mul b a s⟩
  · exact ⟨_, _, exec_mli b a s⟩
  · exact ⟨_, _, exec_div b a s⟩
  · exact ⟨_, _, exec_dvi_of_not_refused b a s fun hr => h ⟨rfl, hr⟩⟩
  · exact ⟨_, _, exec_adx b a s⟩
  · exact ⟨_, _, exec_sbx b a s⟩
  · exact ⟨_, _, exec_shr b a s⟩
  · exact ⟨_, _, exec_asr b a s⟩
  · exact ⟨_, _, exec_shl b a s⟩

theorem exec_of_mem_blockStores (hf : f ∈ blockStores) : ∃ d, ∀ b a s, exec (f b a) s = storeAndStep d b a s := by
  simp only [blockStores, List.mem_cons, List.not_mem_nil, or_false] at hf
  obtain rfl | rfl := hf
  · exact ⟨_, exec_sti⟩
  · exact ⟨_, exec_std⟩

end

/-! ## A literal destination (R109) -/

/-- A literal as b writes nothing: PC is past its word, and the rest is as a leaves it (R142, R147). -/
theorem literalDst_frame (a : SrcOperand) (s : State) :
    let u := (srcAfter s a).advancePc 1
    u.gen = s.gen ∧ u.mem = s.mem ∧ u.sp = spAfterSrc a s.sp ∧ u.pc = pcAfterSrc a s.pc + 1 ∧ u.ex = s.ex ∧
      controlUnchanged s u := by
  refine ⟨srcAfter_gen s a, srcAfter_mem s a, srcAfter_sp_eq a s, congrArg (· + 1) (srcAfter_pc_eq a s),
    srcAfter_ex s a, ?_⟩
  simp [controlUnchanged]

end Sys2Proof.Machine

namespace Sys2Proof

open Machine Claims

/-- Settles O8: as a the operand is read in the state the meaning starts with, as b in the one that a leaves. -/
theorem pcOperandReads : Obligations.PcOperandReads := by
  refine fun a b s => ⟨?src, ?dst⟩
  case src =>
    change (resolveA (.common .pc) s).av = s.pc
    rw [resolveA_of_nextWords_nil rfl]
    rfl
  case dst =>
    change (resolveA (.common .pc) (srcAfter s a)).av = _
    rw [resolveA_of_nextWords_nil rfl]
    exact srcAfter_pc s a

/-- Settles O9: a write to a literal changes nothing, so each template leaves what its operands, EX, and I and J leave. -/
theorem literalDestinationWritesNothing : Obligations.LiteralDestinationWritesNothing := by
  refine ⟨fun f hf n a s => ?plain, fun f hf n a s hdvi => ?ex, fun p hp n a s => ?block, fun n s => ?special⟩
  case plain =>
    obtain ⟨hgen, hmem, hsp, hpc, hex, hcontrol⟩ := literalDst_frame a s
    obtain ⟨base, g, hexec⟩ := exec_of_mem_plainStores hf
    exact ⟨_, hexec _ a s, hgen, hmem, hsp, hpc, hex, hcontrol⟩
  case ex =>
    obtain ⟨hgen, hmem, hsp, hpc, -, hcontrol⟩ := literalDst_frame a s
    obtain ⟨base, g, hexec⟩ := exec_of_mem_exStores hf (.common (.lit n)) a s hdvi
    exact ⟨_, hexec, hgen, hmem, hsp, hpc, hcontrol⟩
  case block =>
    obtain ⟨hgen, hmem, hsp, hpc, hex, hcontrol⟩ := literalDst_frame a s
    have hexec : exec (p.1 (.common (.lit n)) a) s = storeAndStep p.2 (.common (.lit n)) a s := by
      simp only [List.mem_cons, List.not_mem_nil, or_false] at hp
      obtain rfl | rfl := hp
      · rfl
      · rfl
    have hstep := congrArg (fun g : GenRegs => { g with i := g.i + p.2, j := g.j + p.2 }) hgen
    exact ⟨_, hexec.trans (storeAndStep_eq _ a s p.2), hstep, hmem, hsp, hpc, hex, hcontrol⟩
  case special => exact ⟨rfl, rfl, rfl, rfl⟩

/-- Settles O45: each is the template that writes a result to b and leaves EX alone. -/
theorem plainStoreFrame : Obligations.PlainStoreFrame := by
  intro f hf b a s t h
  obtain ⟨base, g, hexec⟩ := exec_of_mem_plainStores hf
  rw [hexec] at h
  exact storeResult_frame h

/-- Settles O46: each is the template that writes a result to b and EX, or the DVI that is refused and has no next state. -/
theorem exStoreFrame : Obligations.ExStoreFrame := by
  intro f hf b a s t h
  by_cases hdvi : f = Instr.dvi ∧ dviRefused s (resolve b a s).bv (resolve b a s).av
  · obtain ⟨rfl, hrefused⟩ := hdvi
    rw [exec_dvi_of_refused b a s hrefused] at h
    cases h
  · obtain ⟨base, g, hexec⟩ := exec_of_mem_exStores hf b a s hdvi
    rw [hexec] at h
    exact storeResultEx_frame h

/-- Settles O47: each is the copy followed by the step of I and J. -/
theorem stiStdFrame : Obligations.StiStdFrame := by
  intro f hf b a s t h
  obtain ⟨d, hexec⟩ := exec_of_mem_blockStores hf
  rw [hexec] at h
  exact storeAndStep_frame h

/-- Settles O22: a conditional that runs on leaves the state of its operands but for PC and the cycles. -/
theorem conditionalFrame : Obligations.ConditionalFrame := by
  intro p hp b a s t h
  rw [exec_of_mem_conditionalTests hp] at h
  obtain ⟨q, n, rfl⟩ := conditional_next h
  refine ⟨fun r => congrArg (readReg · r) (resolve_st_gen b a s), resolve_st_ex b a s, resolve_st_sp b a s,
    controlUnchanged_resolve b a s, fun addr => congrArg (Memory.read · addr) (resolve_st_mem b a s)⟩

/-- Settles O21: the search answers exactly where the skip ends, and no skip ends among conditionals only. -/
theorem endlessSkipIsStuck : Obligations.EndlessSkipIsStuck := by
  intro p hp b a s
  dsimp only
  intro htest
  rw [exec_of_mem_conditionalTests hp, conditional_stuck_iff htest, State.skip_eq_none]
  refine ⟨Iff.rfl, fun hall => ?_⟩
  rw [resolve_st_mem]
  exact not_skipsTo_of_all_conditional hall _

end Sys2Proof
end

section
/-! PROOFS. The interrupt controller: Trigger, the queue, delivery, the boundary dispatch and the return (60_exceptions.md
sections 3 and 4, 40_execution.md R156, R157). -/

namespace Sys2Proof.Machine

variable {s : State}

/-! ## Trigger and the queue (R455, R456) -/

theorem State.trigger_of_discard {m : Word} (h : s.powered = false ∨ s.ia = 0#16) : s.trigger m = s := by
  obtain hp | hia := h
  · simp only [State.trigger, hp, Bool.not_false, if_true]
  · simp only [State.trigger, hia, if_true, ite_self]

section
variable (hp : s.powered = true) (hia : s.ia ≠ 0#16)
include hp hia

theorem State.trigger_of_queueing (hq : s.queueing = true) (m : Word) :
    s.trigger m =
      { s with wakeReq := true, queue := s.queue ++ [m], onFire := s.onFire || decide (256 < s.queue.length + 1) } := by
  simp only [State.trigger, hp, hia, hq, Bool.not_true, Bool.false_eq_true, if_false, if_true, State.enqueue,
    List.length_append, List.length_cons, List.length_nil, Params.queueFireBound]

theorem State.trigger_of_not_queueing (hq : s.queueing = false) (m : Word) :
    s.trigger m = State.deliver { s with wakeReq := true } m := by
  simp only [State.trigger, hp, hia, hq, Bool.not_true, Bool.false_eq_true, if_false]

/-- While queueing is on the messages are appended in order, and on_fire goes on saying whether more than 256 wait. -/
theorem State.triggerAll_of_queueing (hq : s.queueing = true) (hfire : s.onFire = true ↔ 256 < s.queue.length)
    (ms : List Word) :
    (s.triggerAll ms).queue = s.queue ++ ms ∧ ((s.triggerAll ms).onFire = true ↔ 256 < (s.queue ++ ms).length) := by
  induction ms generalizing s with
  | nil => simpa [State.triggerAll] using hfire
  | cons m ms ih =>
    have hs := State.trigger_of_queueing hp hia hq m
    have hqueue : (s.trigger m).queue = s.queue ++ [m] := by rw [hs]
    have hfire' : (s.trigger m).onFire = true ↔ 256 < (s.trigger m).queue.length := by
      simp only [hs, Bool.or_eq_true, decide_eq_true_eq, hfire, List.length_append, List.length_cons, List.length_nil]
      omega
    rw [State.triggerAll, List.append_cons, ← hqueue]
    exact ih (by rwa [s.trigger_powered]) (by rwa [s.trigger_ia]) (by rwa [hs]) hfire'

end

/-! ## Delivery and its undoing (R457, R460, R461) -/

theorem State.deliver_sp_eq (m : Word) : (s.deliver m).sp = s.sp - 2 := by
  rw [State.deliver_sp]
  bv_omega

theorem State.deliver_read_pc (h : s.mem.wf = true) (m : Word) : (s.deliver m).read (s.sp - 1) = s.pc := by
  have hne : s.sp - 1 ≠ s.sp - 1 - 1 := by bv_omega
  rw [State.read, State.deliver_mem, Memory.read_write_ne hne, Memory.read_write_same h]

theorem State.deliver_read_a (h : s.mem.wf = true) (m : Word) : (s.deliver m).read (s.sp - 2) = s.gen.a := by
  have hsp : s.sp - 2 = s.sp - 1 - 1 := by bv_omega
  rw [State.read, State.deliver_mem, hsp, Memory.read_write_same (Memory.wf_write h _ _)]

theorem State.deliver_read_ne (m : Word) {addr : Word} (h1 : addr ≠ s.sp - 1) (h2 : addr ≠ s.sp - 2) :
    (s.deliver m).read addr = s.read addr := by
  have hsp : s.sp - 2 = s.sp - 1 - 1 := by bv_omega
  rw [State.read, State.deliver_mem, Memory.read_write_ne (hsp ▸ h2), Memory.read_write_ne h1, State.read]

/-- Of the general registers Trigger writes only A, and of memory the two words of a delivery (R455, R457). -/
theorem State.trigger_frame (s : State) (m : Word) :
    (∀ r, r ≠ .a → readReg (s.trigger m).gen r = readReg s.gen r) ∧
      ((s.trigger m).sp = s.sp ∨ (s.trigger m).sp = s.sp - 2) ∧
      ∀ addr, addr ≠ s.sp - 1 → addr ≠ s.sp - 2 → (s.trigger m).read addr = s.read addr := by
  obtain ⟨h, -⟩ | ⟨h, -⟩ | ⟨h, -⟩ := s.trigger_cases m
  · rw [h]
    exact ⟨fun _ _ => rfl, .inl rfl, fun _ _ _ => rfl⟩
  · rw [h]
    exact ⟨fun _ _ => rfl, .inl rfl, fun _ _ _ => rfl⟩
  · rw [h]
    exact ⟨fun r hr => readReg_writeReg_ne s.gen m hr, .inr (State.deliver_sp_eq m), fun _ => State.deliver_read_ne m⟩

/-! ## The requests of an instruction (R156) -/

/-- Trigger does not look at `pending`. -/
theorem State.trigger_request (m : Word) (ms : List Word) : (s.request ms).trigger m = (s.trigger m).request ms := by
  by_cases hd : s.powered = false ∨ s.ia = 0#16
  · rw [State.trigger_of_discard hd, State.trigger_of_discard (s := s.request ms) hd]
  · rw [not_or, Bool.not_eq_false] at hd
    obtain ⟨hp, hia⟩ := hd
    obtain hq | hq := Bool.eq_false_or_eq_true s.queueing
    · rw [State.trigger_of_queueing hp hia hq, State.trigger_of_queueing (s := s.request ms) hp hia hq]
      rfl
    · rw [State.trigger_of_not_queueing hp hia hq, State.trigger_of_not_queueing (s := s.request ms) hp hia hq]
      rfl

/-- A single request is performed by the drain as one Trigger. -/
theorem State.drainPending_request (h : s.pending = []) (m : Word) : (s.request [m]).drainPending = s.trigger m := by
  have hpending : (s.trigger m).pending = [] := by rw [s.trigger_pending, h]
  have hlist : (s.request [m]).pending = [m] := by rw [State.request_pending, h, List.nil_append]
  rw [State.drainPending, hlist, State.triggerAll, State.triggerAll, State.trigger_request]
  cases ht : s.trigger m
  rw [ht] at hpending
  cases hpending
  rfl

/-! ## Fetching (R142, R143) -/

theorem wordLength_le (w : Word) : wordLength w ≤ 3 := by
  unfold wordLength
  split_ifs <;> omega

/-- What the three words at PC decode to is the instruction that is fetched. -/
theorem State.fetch_of_decode {i : Instr} {rest : List Word}
    (h : decode [s.read s.pc, s.read (s.pc + 1), s.read (s.pc + 2)] = .ok i rest) : s.fetch = i := by
  rw [decode_cons_of_wordLength_le (wordLength_le _), DecodeResult.ok.injEq] at h
  exact h.1

end Sys2Proof.Machine

namespace Sys2Proof

open Machine

/-- Settles O32, one lemma for each of its cases. -/
theorem triggerResult : Obligations.TriggerResult :=
  fun m _ => ⟨State.trigger_of_discard, fun hp hia hq => State.trigger_of_queueing hp hia hq m,
    fun hp hia hq => State.trigger_of_not_queueing hp hia hq m⟩

/-- Settles O33: the empty queue is not longer than 256, and on_fire says so from there on. -/
theorem queueOverflowSetsOnFire : Obligations.QueueOverflowSetsOnFire := by
  intro ms s hp hia hq hqueue hfire
  have h := State.triggerAll_of_queueing hp hia hq (by simp [hfire, hqueue]) ms
  rwa [hqueue, List.nil_append] at h

/-- Settles O34: the two words on the stack, and every other field as `deliver` writes it. -/
theorem deliveryEntryState : Obligations.DeliveryEntryState :=
  fun m _ h => ⟨rfl, rfl, State.deliver_sp_eq m, State.deliver_read_pc h m, State.deliver_read_a h m, rfl, rfl, rfl, rfl,
    rfl, rfl, rfl, rfl, rfl, rfl, rfl, fun _ => State.deliver_read_ne m⟩

/-- Settles O35, by the three things that the dispatch can do. -/
theorem boundaryDispatch : Obligations.BoundaryDispatch := by
  intro s
  refine ⟨fun h => ?none, fun m q hq hqueue hia => ?discard, fun m q hq hqueue hia => ?deliver⟩
  case none =>
    obtain hq | hqueue := h
    · unfold State.dispatch
      cases s.queue <;> simp [hq]
    · simp only [State.dispatch, hqueue]
  case discard => simp only [State.dispatch, hqueue, hq, hia, Bool.false_eq_true, if_false, if_true]
  case deliver => simp only [State.dispatch, hqueue, hq, hia, Bool.false_eq_true, if_false]

/-- Settles O36: RFI pops the two words that the delivery pushed. -/
theorem returnUndoesDelivery : Obligations.ReturnUndoesDelivery := by
  intro m s h
  have hsp : s.sp - 2 + 1 = s.sp - 1 := by bv_omega
  have hexec := (rfiResult (.short 0) (s.deliver m)).2
  simp only [resolveA_short, State.deliver_sp_eq, State.deliver_read_a h, hsp, State.deliver_read_pc h] at hexec
  refine ⟨_, hexec, rfl, rfl, ?sp, rfl, rfl, rfl⟩
  exact BitVec.sub_add_cancel _ _

/-- Settles O37: the three words at PC decode to what is fetched, and a powered step is the step of the CPU. -/
theorem stepRunsDecodedInstruction : Obligations.StepRunsDecodedInstruction := by
  intro s i rest hp
  dsimp only
  intro hdecode
  have hstep : step s = finish (exec i (s.dispatch.setPc (s.dispatch.pc + 1))) := by
    rw [step_of_powered hp, ← State.fetch_of_decode hdecode]
    rfl
  rw [hstep]
  exact ⟨fun t h => by rw [h, finish], fun f h => by rw [h, finish], fun r h => by rw [h, finish]⟩

end Sys2Proof
end

section
/-! PROOFS. The special and the reserved instructions: results and frames (45_control_interrupt.md, 46_hardware_bus.md R304
to R310, 40_execution.md R155). -/

namespace Sys2Proof.Machine

open Claims

/-! ## Each instruction as its meaning in the state that its operand leaves -/

section
variable (a : SrcOperand) (s : State)

theorem exec_hwn : exec (.hwn a) s = execHwn a s := rfl

theorem exec_hwq : exec (.hwq a) s = execHwq a s := rfl

theorem exec_hwi : exec (.hwi a) s = execHwi a s := rfl

/-- At a boundary state INT is one Trigger at its end (R156, R281). -/
theorem exec_int (h : s.pending = []) :
    exec (.int a) s =
      .next (((resolveA a s).st.charge (4 + (resolveA a s).cost)).trigger (resolveA a s).av) := by
  have hpending : ((resolveA a s).st.charge (4 + (resolveA a s).cost)).pending = [] := (srcAfter_pending s a).trans h
  exact congrArg Host.Outcome.next (State.drainPending_request hpending _)

/-- A reserved opcode passes over the next words of its operands, whatever they are (R113, R114, R155). -/
theorem exec_reserved {i : Instr} (h : reservedOpcode i.opcode = true) :
    exec i s = reservedNoOp (i.src.nextWords.length + i.dstNextWords.length) s := by
  cases i
  case reservedBasic18 | reservedBasic19 | reservedBasic1C | reservedBasic1D => rfl
  case reservedSpecial00 | reservedSpecial02 | reservedSpecial03 | reservedSpecial04 | reservedSpecial05
    | reservedSpecial06 | reservedSpecial07 | reservedSpecial0D | reservedSpecial0E | reservedSpecial0F
    | reservedSpecial13 | reservedSpecial14 | reservedSpecial15 | reservedSpecial16 | reservedSpecial17
    | reservedSpecial18 | reservedSpecial19 | reservedSpecial1A | reservedSpecial1B | reservedSpecial1C
    | reservedSpecial1D | reservedSpecial1E | reservedSpecial1F => rfl
  all_goals exact absurd h Bool.false_ne_true

end

/-! ## The bus (R304 to R306, R310) -/

section
variable {s : State} {h : Word}

theorem lowWord_eq (d : DoubleWord) : lowWord d = d.setWidth 16 := BitVec.ofNat_toNat _ _

theorem highWord_eq (d : DoubleWord) : highWord d = (d >>> 16).setWidth 16 := by
  rw [highWord, ← BitVec.ofNat_toNat, BitVec.toNat_ushiftRight, Nat.shiftRight_eq_div_pow]

theorem State.hardwareQuery_connected {d : Device} (hs : s.slots[h.toNat]? = some (.connected d)) :
    s.hardwareQuery h = { s with gen := { s.gen with
      a := d.ident.id.setWidth 16, b := (d.ident.id >>> 16).setWidth 16, c := d.ident.version,
      x := d.ident.manufacturer.setWidth 16, y := (d.ident.manufacturer >>> 16).setWidth 16 } } := by
  simp only [State.hardwareQuery, hs, slotIdentity, lowWord_eq, highWord_eq]
  rfl

theorem State.hardwareQuery_disconnected (hs : s.slots[h.toNat]? = some .disconnected) :
    s.hardwareQuery h = { s with gen := { s.gen with a := 0, b := 0, c := 0, x := 0, y := 0 } } := by
  simp only [State.hardwareQuery, hs]
  rfl

theorem State.hardwareQuery_none (hs : s.slots.length ≤ h.toNat) : s.hardwareQuery h = s := by
  simp only [State.hardwareQuery, List.getElem?_eq_none hs]

/-- HWQ writes A, B, C, X and Y at most. -/
theorem State.hardwareQuery_frame (s : State) (h : Word) :
    ∃ g, s.hardwareQuery h = { s with gen := g } ∧
      ∀ r, r ∉ [Reg.a, Reg.b, Reg.c, Reg.x, Reg.y] → readReg g r = readReg s.gen r := by
  unfold State.hardwareQuery
  split
  · refine ⟨_, rfl, fun r hr => ?_⟩
    cases r
    case z | i | j => rfl
    all_goals simp at hr
  · exact ⟨s.gen, rfl, fun _ _ => rfl⟩

theorem State.hardwareInterrupt_connected {d : Device} (hs : s.slots[h.toNat]? = some (.connected d)) :
    s.hardwareInterrupt h =
      ((deviceHandle d.state s).st.setDeviceState h.toNat d (deviceHandle d.state s).dev,
        (deviceHandle d.state s).extra) := by
  simp only [State.hardwareInterrupt, hs]

theorem State.hardwareInterrupt_nothing (hs : s.slots[h.toNat]? = some .disconnected ∨ s.slots.length ≤ h.toNat) :
    s.hardwareInterrupt h = (s, 0) := by
  obtain hs | hs := hs
  · simp only [State.hardwareInterrupt, hs]
  · simp only [State.hardwareInterrupt, List.getElem?_eq_none hs]

end

/-! ## Frames (R14, R16, R145) -/

section
variable (a : SrcOperand) (s : State)

theorem controlUnchanged_srcAfter : controlUnchanged s (srcAfter s a) := by
  simp [controlUnchanged]

/-- IAG and HWN write the location of a only. -/
theorem storeSrc_frame (v : Word) (n : Nat) :
    let o := resolveA a s
    let t := (o.st.writeLoc o.aloc v).charge n
    onlyWrites o.aloc (spAfterSrc a s.sp) (pcAfterSrc a s.pc) s t ∧ (o.aloc ≠ .ex → t.ex = s.ex) ∧
      controlUnchanged s t := by
  rw [← srcAfter_sp_eq a s, ← srcAfter_pc_eq a s]
  refine ⟨onlyWrites_writeLoc (srcAfter_gen s a) (srcAfter_mem s a) _ _ _, fun hl => ?ex,
    controlUnchanged_trans (controlUnchanged_srcAfter a s) (controlUnchanged_writeLoc _ _ _ _)⟩
  case ex => exact (State.writeLoc_ex_ne _ _ _ hl).trans (srcAfter_ex s a)

end

end Sys2Proof.Machine

namespace Sys2Proof

open Machine Claims

/-- Settles O31: passing over the operands' next words is passing over the whole instruction. -/
theorem reservedNoOp : Obligations.ReservedNoOp := by
  intro i s h
  have hlen : i.length - 1 = i.src.nextWords.length + i.dstNextWords.length := by
    rw [Instr.length]
    omega
  rw [exec_reserved s h, hlen]
  rfl

/-- Settles O27, by what the addressed slot holds. -/
theorem hwnHwqResults : Obligations.HwnHwqResults := by
  refine fun a s => ⟨rfl, rfl, ?hwn, fun d hs => ?connected, fun hs => ?disconnected, fun hs => ?none⟩
  case hwn => simp only [exec_hwn, execHwn, resolveA_st, srcAfter_slots]
  case connected =>
    have hs' : (resolveA a s).st.slots[(resolveA a s).av.toNat]? = some (.connected d) := by
      rwa [resolveA_st, srcAfter_slots]
    rw [exec_hwq, execHwq, State.hardwareQuery_connected hs', ← srcAfter_gen s a]
    rfl
  case disconnected =>
    have hs' : (resolveA a s).st.slots[(resolveA a s).av.toNat]? = some .disconnected := by
      rwa [resolveA_st, srcAfter_slots]
    rw [exec_hwq, execHwq, State.hardwareQuery_disconnected hs', ← srcAfter_gen s a]
    rfl
  case none =>
    have hs' : (resolveA a s).st.slots.length ≤ (resolveA a s).av.toNat := by rwa [resolveA_st, srcAfter_slots]
    rw [exec_hwq, execHwq, State.hardwareQuery_none hs']

/-- Settles O28: the handler leaves the slots and the cycles alone, and nothing is requested where no handler runs. -/
theorem hwiResult : Obligations.HwiResult := by
  refine fun a s => ⟨rfl, fun d hs => ?connected, fun hs hpending => ?nothing⟩
  case connected =>
    have hs' : (resolveA a s).st.slots[(resolveA a s).av.toNat]? = some (.connected d) := by
      rwa [resolveA_st, srcAfter_slots]
    have htouched := deviceHandle_touched d.state (resolveA a s).st
    have hslots : (deviceHandle d.state (resolveA a s).st).st.slots = s.slots := htouched.slots.trans (srcAfter_slots s a)
    have hcycles : (deviceHandle d.state (resolveA a s).st).st.cycles = s.cycles :=
      htouched.cycles.trans (srcAfter_cycles s a)
    simp only [exec_hwi, execHwi, State.hardwareInterrupt_connected hs', State.setDeviceState, State.charge, hslots,
      hcycles, Nat.add_assoc]
  case nothing =>
    have hs' : (resolveA a s).st.slots[(resolveA a s).av.toNat]? = some .disconnected ∨
        (resolveA a s).st.slots.length ≤ (resolveA a s).av.toNat := by
      rwa [resolveA_st, srcAfter_slots]
    rw [exec_hwi, execHwi, State.hardwareInterrupt_nothing hs', State.drainPending_of_nil]
    · rfl
    · exact (srcAfter_pending s a).trans hpending

/-- Settles O24: INT at a boundary state is one Trigger in the state its operand leaves. -/
theorem intResult : Obligations.IntResult := by
  intro a s hpending hp
  dsimp only
  rw [exec_int a s hpending]
  generalize hu : (resolveA a s).st.charge (4 + (resolveA a s).cost) = u
  have hpowered : u.powered = true := by simp [← hu, hp]
  have hia : u.ia = s.ia := by simp [← hu]
  have hqueueing : u.queueing = s.queueing := by simp [← hu]
  have hqueue : u.queue = s.queue := by simp [← hu]
  have hfire : u.onFire = s.onFire := by simp [← hu]
  refine ⟨rfl, fun h => ?discard, fun h hq => ?queue, fun h hq => ?deliver⟩
  case discard => rw [State.trigger_of_discard (.inr (hia.trans h))]
  case queue => rw [State.trigger_of_queueing hpowered (hia ▸ h) (hqueueing.trans hq), hqueue, hfire]
  case deliver => rw [State.trigger_of_not_queueing hpowered (hia ▸ h) (hqueueing.trans hq)]

/-- Settles O48, each frame over the state that the operand leaves. -/
theorem specialFrames : Obligations.SpecialFrames := by
  intro a s t
  dsimp only
  have hgen := srcAfter_gen s a
  have hex := srcAfter_ex s a
  have hsp := srcAfter_sp_eq a s
  have hread := srcAfter_read s a
  have hcontrol := controlUnchanged_srcAfter a s
  refine ⟨fun h => ?jsr, fun h => ?store, fun h => ?ias, fun h => ?rfi, fun h => ?iaq, fun h => ?hwq⟩
  case jsr =>
    cases h
    exact ⟨hgen, hex, hcontrol, fun addr hne => (Memory.read_write_ne hne).trans (hread addr)⟩
  case store =>
    obtain h | h := h
    · cases h
      exact storeSrc_frame a s _ _
    · cases h
      exact storeSrc_frame a s _ _
  case ias =>
    cases h
    exact ⟨hgen, hex, hsp, ⟨rfl, hcontrol.2⟩, hread⟩
  case rfi =>
    rw [(rfiResult a s).2] at h
    cases h
    refine ⟨fun r hr => ?_, hex, congrArg (· + 2) hsp, ⟨hcontrol.1, rfl, hcontrol.2.2⟩, hread⟩
    exact readReg_writeReg_ne s.gen _ hr
  case iaq =>
    cases h
    exact ⟨hgen, hex, hsp, ⟨hcontrol.1, rfl, hcontrol.2.2⟩, hread⟩
  case hwq =>
    obtain ⟨g, hg, hframe⟩ := (resolveA a s).st.hardwareQuery_frame (resolveA a s).av
    rw [exec_hwq, execHwq, hg] at h
    cases h
    exact ⟨fun r hr => (hframe r hr).trans (congrArg (readReg · r) hgen), hex, hsp, hcontrol, hread⟩

/-- Settles O49: one Trigger leaves everything but A, the control state and the two words of a delivery. -/
theorem intFrame : Obligations.IntFrame := by
  intro a s t hpending h
  rw [exec_int a s hpending] at h
  cases h
  rw [← srcAfter_sp_eq a s]
  obtain ⟨hreg, hsp, hmem⟩ := State.trigger_frame ((srcAfter s a).charge (4 + (resolveA a s).cost)) (resolveA a s).av
  refine ⟨fun r hr => (hreg r hr).trans (congrArg (readReg · r) (srcAfter_gen s a)), ?_, ?_, ?_, ?_, ?_, ?_, hsp,
    fun addr h1 h2 => (hmem addr h1 h2).trans (srcAfter_read s a addr)⟩
  all_goals simp [hpending]

end Sys2Proof
end

section
/-! PROOFS. The devices: what their handlers touch, the selectors that answer or set values, the clock and the keyboard
(46_hardware_bus.md R307, 47_dev_clock_keyboard.md, 49_dev_floppy.md R408, R411). -/

namespace Sys2Proof.Machine

open Claims

/-! ## What the handlers of the reference devices write (R332 to R334, R347 to R351, R372 to R378, R408 to R410) -/

section
variable (s : State)

theorem clockHandle_st (d : ClockState) : ∃ v, (clockHandle d s).st = s.setReg .c v := by
  unfold clockHandle
  split
  · exact ⟨s.gen.c, rfl⟩
  · exact ⟨_, rfl⟩
  · exact ⟨s.gen.c, rfl⟩
  · exact ⟨s.gen.c, rfl⟩

theorem keyboardHandle_st (d : KeyboardState) : ∃ v, (keyboardHandle d s).st = s.setReg .c v := by
  unfold keyboardHandle
  split
  · exact ⟨s.gen.c, rfl⟩
  · exact ⟨_, rfl⟩
  · exact ⟨_, rfl⟩
  · exact ⟨s.gen.c, rfl⟩
  · exact ⟨s.gen.c, rfl⟩

/-- A status report writes B and requests at most one interrupt (R407). -/
theorem reportStatus_st (d : FloppyState) (st : FloppyStatus) (e : FloppyError) (b : Word) :
    ∃ ms v w, (reportStatus d st e b s).st = ((s.request ms).setReg .b v).setReg .c w :=
  ⟨_, b, s.gen.c, rfl⟩

theorem floppyHandle_st (d : FloppyState) :
    ∃ ms v w, (floppyHandle d s).st = ((s.request ms).setReg .b v).setReg .c w := by
  have hnone : s.request [] = s := by simp only [State.request, List.append_nil]
  have hself : ∃ ms v w, s = ((s.request ms).setReg .b v).setReg .c w := ⟨[], s.gen.b, s.gen.c, by rw [hnone]; rfl⟩
  unfold floppyHandle
  split
  · exact ⟨[], _, _, by rw [hnone]; rfl⟩
  · exact hself
  · unfold floppyStartRead
    split_ifs
    all_goals exact reportStatus_st s _ _ _ _
  · unfold floppyStartWrite
    split_ifs
    all_goals exact reportStatus_st s _ _ _ _
  · exact hself

/-- The display writes memory only, and that only in its two dumps (R372 to R378). -/
theorem displayHandle_st (d : DisplayState) :
    let t := (displayHandle d s).st
    t.pc = s.pc ∧ t.sp = s.sp ∧ t.ex = s.ex ∧ t.ia = s.ia ∧ t.gen = s.gen ∧
      (s.gen.a ≠ 4#16 ∧ s.gen.a ≠ 5#16 → t.mem = s.mem) := by
  unfold displayHandle
  split
  case h_5 h => exact ⟨rfl, rfl, rfl, rfl, rfl, fun hne => absurd (BitVec.eq_of_toNat_eq h) hne.1⟩
  case h_6 h => exact ⟨rfl, rfl, rfl, rfl, rfl, fun hne => absurd (BitVec.eq_of_toNat_eq h) hne.2⟩
  all_goals exact ⟨rfl, rfl, rfl, rfl, rfl, fun _ => rfl⟩

end

/-! ## The clock (R335, R336) -/

section
variable {p : Parameters} {d : ClockState}

/-- One update of an enabled clock that has less than a period accumulated: `k` ticks, and again less than a period left. -/
theorem clockUpdate_ticks (hp : p.wf = true) (he : d.enabled = true) (hperiod : d.period ≠ 0#16) (hacc : 0 ≤ d.acc)
    {dt : Rat} (hdt : 0 ≤ dt) :
    ∃ k : Nat, clockUpdate p d dt =
        ({ d with ticks := d.ticks + BitVec.ofNat 16 k, acc := d.acc + dt - (k : Rat) * clockPeriod p d },
          if d.msg = 0#16 then [] else List.replicate k d.msg) ∧
      0 ≤ d.acc + dt - (k : Rat) * clockPeriod p d ∧ d.acc + dt - (k : Rat) * clockPeriod p d < clockPeriod p d := by
  refine ⟨wholePeriods (d.acc + dt) (clockPeriod p d), ?_,
    wholePeriods_spec (add_nonneg hacc hdt) (clockPeriod_pos hp hperiod)⟩
  simp only [clockUpdate, he, Bool.not_true, Bool.false_eq_true, if_false]

/-- Several updates of such a clock tick once for each whole period of the time they add up to, however it is split. -/
theorem clockUpdates_ticks (hp : p.wf = true) (he : d.enabled = true) (hperiod : d.period ≠ 0#16) (hlo : 0 ≤ d.acc)
    (hhi : d.acc < clockPeriod p d) (dts : List Rat) (hdts : ∀ dt ∈ dts, 0 ≤ dt) :
    ∃ k : Nat, clockUpdates p d dts =
        ({ d with ticks := d.ticks + BitVec.ofNat 16 k, acc := d.acc + dts.sum - (k : Rat) * clockPeriod p d },
          if d.msg = 0#16 then [] else List.replicate k d.msg) ∧
      0 ≤ d.acc + dts.sum - (k : Rat) * clockPeriod p d ∧
      d.acc + dts.sum - (k : Rat) * clockPeriod p d < clockPeriod p d := by
  induction dts generalizing d with
  | nil => exact ⟨0, by simp [clockUpdates], by simpa using hlo, by simpa using hhi⟩
  | cons dt dts ih =>
    obtain ⟨hdt, hdts⟩ := List.forall_mem_cons.mp hdts
    obtain ⟨k, hk, hklo, hkhi⟩ := clockUpdate_ticks hp he hperiod hlo hdt
    obtain ⟨k', hk', hlo', hhi'⟩ := ih (d := (clockUpdate p d dt).1) (by rwa [hk]) (by rwa [hk]) (by rwa [hk])
      (by rwa [hk]) hdts
    have hacc : d.acc + (dt :: dts).sum - ((k + k' : Nat) : Rat) * clockPeriod p d =
        d.acc + dt - (k : Rat) * clockPeriod p d + dts.sum - (k' : Rat) * clockPeriod p d := by
      rw [List.sum_cons]
      push_cast
      ring
    rw [hk] at hk' hlo' hhi'
    refine ⟨k + k', ?_, hacc ▸ hlo', hacc ▸ hhi'⟩
    rw [hacc, clockUpdates, hk]
    dsimp only
    rw [hk']
    dsimp only
    rw [BitVec.ofNat_add, BitVec.add_assoc, List.replicate_add]
    split_ifs <;> rfl

end

/-! ## The keyboard (R347 to R353) -/

section
variable (d : KeyboardState)

theorem keyDowns_buf (ks : List Word) : (keyDowns d ks).buf = d.buf ++ ks := by
  induction ks generalizing d with
  | nil => exact (List.append_nil _).symm
  | cons k ks ih => rw [keyDowns, ih, List.append_cons]; rfl

theorem mem_insertCode_of_mem {k k' : Word} {xs : List Word} (h : k' ∈ xs) : k' ∈ insertCode k xs := by
  induction xs with
  | nil => cases h
  | cons x xs ih =>
    simp only [insertCode]
    split_ifs
    · exact List.mem_cons_of_mem _ h
    · exact h
    · obtain rfl | h := List.mem_cons.mp h
      · exact List.mem_cons_self
      · exact List.mem_cons_of_mem _ (ih h)

/-- A pressed key is down, and stays down while others are pressed (R352). -/
theorem mem_keyDowns_down {k : Word} {ks : List Word} (h : k ∈ ks ∨ k ∈ d.down) : k ∈ (keyDowns d ks).down := by
  induction ks generalizing d with
  | nil => exact h.resolve_left (List.not_mem_nil)
  | cons k' ks ih =>
    refine ih _ ?_
    rw [List.mem_cons, or_assoc] at h
    obtain rfl | h | h := h
    · exact .inr (mem_insertCode _ _)
    · exact .inl h
    · exact .inr (mem_insertCode_of_mem h)

/-- Selector 1 gives the buffer back oldest first, and then 0 (R348). -/
theorem keyPops_eq (n : Nat) : keyPops d (d.buf.length + n) = d.buf ++ List.replicate n 0#16 := by
  obtain ⟨buf, down, msg⟩ := d
  induction buf with
  | nil =>
    induction n with
    | zero => rfl
    | succ n ih =>
      simp only [List.length_nil, Nat.zero_add, List.nil_append, List.replicate_succ] at ih ⊢
      rw [keyPops]
      exact congrArg _ ih
  | cons k ks ih =>
    rw [List.length_cons, Nat.add_right_comm, keyPops]
    exact congrArg _ ih

theorem mem_removeCode {k k' : Word} {xs : List Word} : k' ∈ removeCode k xs ↔ k' ∈ xs ∧ k' ≠ k := by
  simp [removeCode]

end

section
variable {s : State}

/-- Selector 1: the oldest key, or 0 when none is buffered (R348). -/
theorem keyboardHandle_pop (h : s.gen.a = 1#16) (d : KeyboardState) :
    keyboardHandle d s =
      { st := s.setReg .c (d.buf.headD 0#16), dev := .keyboard { d with buf := d.buf.tail }, extra := 0 } := by
  rw [keyboardHandle, h]
  rfl

/-- Selector 2: whether the key in B is down (R349). -/
theorem keyboardHandle_query (h : s.gen.a = 2#16) (d : KeyboardState) :
    keyboardHandle d s =
      { st := s.setReg .c (if s.gen.b ∈ d.down then 1 else 0), dev := .keyboard d, extra := 0 } := by
  simp only [← List.contains_iff_mem]
  rw [keyboardHandle, h]
  rfl

theorem floppyHandle_poll (h : s.gen.a = 0#16) (d : FloppyState) : floppyHandle d s = floppyPoll d s := by
  rw [floppyHandle, h]
  rfl

end

end Sys2Proof.Machine

namespace Sys2Proof

open Machine Claims

/-- Settles O29, as the fields of what every handler touches. -/
theorem handlersTouchOnlyTheirHandle : Obligations.HandlersTouchOnlyTheirHandle := by
  intro d s
  have h := deviceHandle_touched d s
  exact ⟨h.queueing, h.onFire, h.queue, h.cycles, h.wakeReq, h.powered, h.slots, h.params, h.pending, h.memory⟩

/-- Settles O30, by the device: which registers it writes, and for the display the blocks of its dumps. -/
theorem referenceHandlersFrame : Obligations.ReferenceHandlersFrame := by
  intro d s hparams hreference
  cases d with
  | clock c =>
    obtain ⟨v, hst⟩ := clockHandle_st s c
    simp only [deviceHandle, hst]
    exact ⟨rfl, rfl, rfl, rfl, fun r _ hc => readReg_writeReg_ne s.gen v hc, fun _ => rfl, fun _ => nofun,
      fun _ => rfl, fun _ _ _ => rfl, fun _ _ _ => rfl⟩
  | keyboard k =>
    obtain ⟨v, hst⟩ := keyboardHandle_st s k
    simp only [deviceHandle, hst]
    exact ⟨rfl, rfl, rfl, rfl, fun r _ hc => readReg_writeReg_ne s.gen v hc, fun _ => rfl, fun _ => nofun,
      fun _ => rfl, fun _ _ _ => rfl, fun _ _ _ => rfl⟩
  | floppy f =>
    obtain ⟨ms, v, w, hst⟩ := floppyHandle_st s f
    simp only [deviceHandle, hst]
    refine ⟨rfl, rfl, rfl, rfl, fun r hb hc => ?_, fun h => absurd rfl (h f), fun _ => nofun, fun _ => rfl,
      fun _ _ _ => rfl, fun _ _ _ => rfl⟩
    exact (readReg_writeReg_ne _ w hc).trans (readReg_writeReg_ne s.gen v hb)
  | foreign f => exact absurd rfl (hreference f)
  | display v =>
    obtain ⟨hpc, hsp, hex, hia, hgen, hmem⟩ := displayHandle_st s v
    have hlen := Parameters.defaultPalette_length hparams
    refine ⟨hpc, hsp, hex, hia, fun r _ _ => congrArg (readReg · r) hgen, fun _ => congrArg GenRegs.b hgen, fun _ _ => hgen,
      fun h => hmem (h v rfl), fun ha addr hout => ?font, fun ha addr hout => ?palette⟩
    case font =>
      simp only [deviceHandle, displayHandle_dumpFont ha]
      exact State.read_writeBlock_ne (by rwa [defaultFont_length])
    case palette =>
      simp only [deviceHandle, displayHandle_dumpPalette ha]
      exact State.read_writeBlock_ne (by rwa [hlen])

/-- Settles O50, by running each selector. -/
theorem deviceSelectors : Obligations.DeviceSelectors := by
  intro c k f s
  refine ⟨fun h => ?period, fun h => ?ticks, fun h => ?clockMsg, fun h => ?clear, fun h hbuf => ?popEmpty,
    fun x xs h hbuf => ?pop, fun h => keyboardHandle_query h k, fun h => ?keyMsg, fun h => ?poll, fun h => ?floppyMsg⟩
  case period =>
    rw [clockHandle, h, bne, beq_eq_decide, ← decide_not]
    rfl
  case ticks =>
    rw [clockHandle, h]
    rfl
  case clockMsg =>
    rw [clockHandle, h]
    rfl
  case clear =>
    rw [keyboardHandle, h]
    rfl
  case popEmpty =>
    obtain ⟨buf, down, msg⟩ := k
    cases hbuf
    exact keyboardHandle_pop h _
  case pop => rw [keyboardHandle_pop h, hbuf, List.headD_cons, List.tail_cons]
  case keyMsg =>
    rw [keyboardHandle, h]
    rfl
  case poll => exact (floppyHandle_poll h f).trans rfl
  case floppyMsg =>
    rw [floppyHandle, h]
    rfl

/-- Settles O51: the number of ticks is the one number of whole periods in the time that the updates add up to. -/
theorem clockTicksExactly : Obligations.ClockTicksExactly := by
  intro p d dts k hp he hperiod hacc hdts hsum
  have hpos := clockPeriod_pos hp hperiod
  obtain ⟨k', hupdates, hlo, hhi⟩ := clockUpdates_ticks hp he hperiod hacc.ge (hacc ▸ hpos) dts hdts
  have hsum' : dts.sum = (k : Rat) * clockPeriod p d := hsum
  rw [hacc, hsum', zero_add] at hlo hhi hupdates
  have hk : k = k' := by
    have h1 := wholePeriods_eq hpos (k := k') (acc := (k : Rat) * clockPeriod p d) (by linarith) (by linarith)
    have h2 := wholePeriods_eq hpos (k := k) (acc := (k : Rat) * clockPeriod p d) le_rfl (by linarith)
    exact h2.symm.trans h1
  subst hk
  rw [sub_self] at hupdates
  rw [hupdates]
  exact ⟨rfl, rfl⟩

/-- Settles O52: presses append to the buffer and insert into the down set, pops take from the buffer's head. -/
theorem keyboardKeepsOrder : Obligations.KeyboardKeepsOrder := by
  intro d ks n s hbuf
  have hks : (keyDowns d ks).buf = ks := by rw [keyDowns_buf, hbuf, List.nil_append]
  refine ⟨hks, fun k hk => mem_keyDowns_down d (.inl hk), ?pops, fun h => keyboardHandle_pop h _,
    fun h => keyboardHandle_query h _, fun k => ⟨fun h => ?up, rfl, fun k' hk' hne => mem_removeCode.mpr ⟨hk', hne⟩⟩⟩
  case pops =>
    have h := keyPops_eq (keyDowns d ks) n
    rwa [hks] at h
  case up => exact (mem_removeCode.mp h).2 rfl

end Sys2Proof
end

section
/-! PROOFS. The floppy controller: a read, from its start command to its completion (49_dev_floppy.md R409, R415, R418), and
what PowerOff cancels (R414, 70_reset_and_hazards.md R511). -/

namespace Sys2Proof.Machine

open Claims

section
variable {d : FloppyState} {s : State}

/-! ## The start command (R409) -/

theorem floppyHandle_read (h : s.gen.a = 2#16) (d : FloppyState) : floppyHandle d s = floppyStartRead d s := by
  rw [floppyHandle, h]
  rfl

/-- A report of an error in an unchanged state, with B = 0, is a failed start command (R407, R409). -/
theorem reportStatus_eq_floppyFails (d : FloppyState) (e : FloppyError) (s : State) :
    reportStatus d d.status e 0 s = floppyFails d e s := by
  have hnew : (d.status, e) ≠ (d.status, d.error) ↔ d.error ≠ e := by
    rw [ne_eq, Prod.mk.injEq, eq_self_iff_true, true_and, eq_comm]
  simp only [reportStatus, setStatus, hnew, floppyFails]

theorem floppyStartRead_of_busy (h : d.status = .busy) : floppyStartRead d s = floppyFails d .busy s := by
  rw [← reportStatus_eq_floppyFails, floppyStartRead, if_pos h]

theorem floppyStartRead_of_noMedia (h : d.status = .noMedia) : floppyStartRead d s = floppyFails d .noMedia s := by
  have hbusy : d.status ≠ .busy := by rw [h]; decide
  rw [← reportStatus_eq_floppyFails, floppyStartRead, if_neg hbusy, if_pos h]

section
variable (hbusy : d.status ≠ .busy) (hmedia : d.status ≠ .noMedia)
include hbusy hmedia

theorem floppyStartRead_of_badSector (h : s.params.floppySectors ≤ s.gen.x.toNat) :
    floppyStartRead d s = floppyFails d .badSector s := by
  rw [← reportStatus_eq_floppyFails, floppyStartRead, if_neg hbusy, if_neg hmedia, if_pos h]

theorem floppyStartRead_of_ready (h : s.gen.x.toNat < s.params.floppySectors) :
    floppyStartRead d s = startTransfer .read d s := by
  rw [floppyStartRead, if_neg hbusy, if_neg hmedia, if_neg (Nat.not_le.mpr h)]

end

/-- A legal controller without a medium is in the state NO_MEDIA: a transfer would have one (R406). -/
theorem floppyWf_status_of_no_medium {p : Parameters} (h : floppyWf p d = true) (hm : d.medium = none) :
    d.status = .noMedia := by
  cases ho : d.op with
  | none =>
    obtain ⟨-, -, -, hstatus⟩ := (floppyWf_idle ho).mp h
    rw [hstatus, hm, idleStatus]
  | some op =>
    obtain ⟨-, -, -, -, -, m, hm', -⟩ := (floppyWf_busy ho).mp h
    rw [hm] at hm'
    cases hm'

/-- A legal controller with a medium and no transfer is ready, write-protected or not (R406). -/
theorem floppyWf_ready {p : Parameters} (h : floppyWf p d = true) (ho : d.op = none) {med : Medium}
    (hm : d.medium = some med) :
    d.status = idleStatus (some med) ∧ d.status ≠ .busy ∧ d.status ≠ .noMedia ∧ mediumWf p med = true := by
  obtain ⟨-, hmedium, -, hstatus⟩ := (floppyWf_idle ho).mp h
  rw [hm] at hstatus hmedium
  refine ⟨hstatus, hstatus ▸ idleStatus_ne_busy _, ?_, hmedium⟩
  rw [hstatus, idleStatus]
  split <;> decide

end

/-! ## The transfer (R409, R415) -/

/-- The controller after it has started the read of sector X to address Y. -/
def readStarted (d : FloppyState) (s : State) : FloppyState :=
  { d with
    status := .busy,
    op := some { kind := .read, sector := s.gen.x.toNat, addr := s.gen.y, track := trackOf s.params s.gen.x.toNat,
                 remaining := floppyDelay s.params d (trackOf s.params s.gen.x.toNat) } }

theorem startTransfer_read (d : FloppyState) (s : State) :
    (startTransfer .read d s).dev = .floppy (readStarted d s) ∧ (startTransfer .read d s).st.gen.b = 1 :=
  ⟨rfl, rfl⟩

section
variable {d : FloppyState} {s : State} {dt : Rat} {m : Memory}

/-- Before the delay is over a read goes on, and nothing is copied yet (R415; log entry 19). -/
theorem floppyUpdate_before (h : dt < floppyDelay s.params d (trackOf s.params s.gen.x.toNat)) :
    (floppyUpdate s.params (readStarted d s) dt m).dev.status = .busy ∧
      (floppyUpdate s.params (readStarted d s) dt m).mem = m := by
  simp only [floppyUpdate, readStarted, if_pos (sub_pos.mpr h), and_self]

/-- When the delay is over the sector is copied, and the controller is as before but for the head (R415). -/
theorem floppyUpdate_after (h : floppyDelay s.params d (trackOf s.params s.gen.x.toNat) ≤ dt) (ho : d.op = none)
    {med : Medium} (hm : d.medium = some med) (hstatus : d.status = idleStatus (some med)) :
    (floppyUpdate s.params (readStarted d s) dt m).dev = { d with head := trackOf s.params s.gen.x.toNat } ∧
      (floppyUpdate s.params (readStarted d s) dt m).mem =
        m.writeBlock s.gen.y (sectorRead s.params med s.gen.x.toNat) := by
  have hover : ¬ 0 < floppyDelay s.params d (trackOf s.params s.gen.x.toNat) - dt := not_lt.mpr (sub_nonpos.mpr h)
  simp only [floppyUpdate, readStarted, if_neg hover, hm, floppyCopy, setStatus, ho, hstatus, and_self]

end

/-! ## PowerOff, device by device (R414, R511) -/

theorem floppyCancel_of_idle {f : FloppyState} (h : f.op = none) : floppyCancel f = f := by
  rw [floppyCancel, h]

theorem floppyCancel_of_transfer {f : FloppyState} (h : f.op ≠ none) :
    floppyCancel f = { f with op := none, status := idleStatus f.medium } := by
  unfold floppyCancel
  split
  next ho => exact absurd ho h
  next => rfl

end Sys2Proof.Machine

namespace Sys2Proof

open Machine Claims

/-- Settles O53: the branches of the start command, and a completing read as a block of writes of the sector's words. -/
theorem floppyReadCopiesOneSector : Obligations.FloppyReadCopiesOneSector := by
  intro d s hparams hwf ha
  dsimp only
  rw [floppyHandle_read ha]
  refine ⟨fun h => floppyStartRead_of_busy h, fun h => ?noMedia, fun ho hm hsector => ?badSector,
    fun med ho hm hsector => ?read⟩
  case noMedia => exact floppyStartRead_of_noMedia (floppyWf_status_of_no_medium hwf h)
  case badSector =>
    obtain ⟨med, hmed⟩ := Option.ne_none_iff_exists'.mp hm
    obtain ⟨-, hbusy, hmedia, -⟩ := floppyWf_ready hwf ho hmed
    exact floppyStartRead_of_badSector hbusy hmedia hsector
  case read =>
    obtain ⟨hstatus, hbusy, hmedia, hmedium⟩ := floppyWf_ready hwf ho hm
    rw [floppyStartRead_of_ready hbusy hmedia hsector]
    obtain ⟨hdev, hb⟩ := startTransfer_read d s
    have hlen := length_sectorRead hmedium s.gen.x.toNat
    refine ⟨readStarted d s, hdev, hb, rfl, fun dt m hmem => ⟨fun hdt => ?before, fun hdt => ?after⟩⟩
    case before =>
      obtain ⟨hstill, hcopy⟩ := floppyUpdate_before (m := m) hdt
      exact ⟨hstill, fun addr _ => by rw [hcopy]⟩
    case after =>
      obtain ⟨hend, hcopy⟩ := floppyUpdate_after (m := m) hdt ho hm hstatus
      refine ⟨hend, fun addr hout => ?outside, fun hfits _ i hi => ?inside⟩
      case outside =>
        rw [hcopy]
        exact Memory.read_writeBlock_ne _ fun i hi e => hout ⟨i, hlen ▸ hi, e⟩
      case inside => rw [hcopy, Memory.read_writeBlock _ hmem _ (hlen ▸ hfits) (hlen ▸ hi)]

/-- Settles O59: every slot is cancelled by itself, and only a floppy's transfer and the local words of a device that is
none of the four are there to cancel. -/
theorem powerOffCancelsCompletions : Obligations.PowerOffCancelsCompletions := by
  intro s
  refine ⟨rfl, List.length_map _, fun h hs => ?placeholder, fun h d hs => ?device, fun x hx => ?idle, slotsWf_cancel⟩
  case placeholder =>
    rw [State.powerOff, List.getElem?_map, hs]
    rfl
  case device =>
    refine ⟨deviceCancel d.state, ?slot, fun c hd => ?_, fun k hd => ?_, fun v hd => ?_, fun f hd ho => ?_,
      fun f hd ho => ?_, fun f hd => ?_⟩
    case slot =>
      rw [State.powerOff, List.getElem?_map, hs]
      rfl
    all_goals rw [hd, deviceCancel]
    · rw [floppyCancel_of_idle ho]
    · rw [floppyCancel_of_transfer ho]
      rfl
    · exact ⟨_, rfl⟩
  case idle =>
    obtain ⟨y, -, rfl⟩ := List.mem_map.mp hx
    exact y.completing_cancel

end Sys2Proof
end

section
/-! PROOFS. The host interface: Execute, the halt queries, LoadImage and the snapshot (40_execution.md R158 to R161,
70_reset_and_hazards.md R503 to R507). -/

namespace Sys2Proof.Machine

open Claims

/-! ## Execute as a run of steps (R158, R159) -/

section
variable {s t u : State} {limit : Nat} {o : Host.Outcome State Fault Refusal}

theorem step_keeps (h : step s = .next t) : t.powered = s.powered ∧ s.cycles + 1 ≤ t.cycles := by
  have hran := (cpuStep_next (step_next h).2).1
  exact ⟨hran.powered, hran.cost⟩

theorem stepsTo_cycles {n : Nat} (h : stepsTo n s u) : s.cycles ≤ u.cycles := by
  induction n generalizing s with
  | zero => exact (congrArg State.cycles h).ge
  | succ n ih =>
    obtain ⟨w, hw, h⟩ := h
    have hcost := (step_keeps hw).2
    have hrest := ih h
    omega

/-- Some number of steps from `s` leads to a state below the limit, and the step there answers `o`. -/
def ReachesBelow (limit : Nat) (s : State) (o : Host.Outcome State Fault Refusal) : Prop :=
  ∃ n u, stepsTo n s u ∧ u.cycles < limit ∧ step u = o

theorem ReachesBelow.lt (h : ReachesBelow limit s o) : s.cycles < limit := by
  obtain ⟨n, u, hsteps, hu, -⟩ := h
  exact (stepsTo_cycles hsteps).trans_lt hu

/-- Below the limit the answer is that of the first step, or it is reached from where that step leads. -/
theorem reachesBelow_iff (hs : s.cycles < limit) :
    ReachesBelow limit s o ↔ step s = o ∨ ∃ w, step s = .next w ∧ ReachesBelow limit w o := by
  constructor
  · rintro ⟨n, u, hsteps, hu, ho⟩
    cases n with
    | zero =>
      cases hsteps
      exact .inl ho
    | succ n =>
      obtain ⟨w, hw, hsteps⟩ := hsteps
      exact .inr ⟨w, hw, n, u, hsteps, hu, ho⟩
  · rintro (ho | ⟨w, hw, n, u, hsteps, hu, ho⟩)
    · exact ⟨0, s, rfl, hs, ho⟩
    · exact ⟨n + 1, u, ⟨w, hw, hsteps⟩, hu, ho⟩

theorem executeLoop_of_le (n : Nat) (h : limit ≤ s.cycles) : executeLoop n limit s = .next s := by
  cases n with
  | zero => rfl
  | succ n => rw [executeLoop, if_neg (Nat.not_lt.mpr h)]

/-- The loop stops at the first step that reaches the limit or has no successor. As every step costs a cycle, a bound on the
number of steps that covers the cycles up to the limit is never met. -/
theorem executeLoop_eq_iff {n : Nat} (hp : s.powered = true) (hs : s.cycles < limit) (hn : limit ≤ s.cycles + n) :
    executeLoop n limit s = o ↔ ReachesBelow limit s o ∧ ∀ v, o = .next v → limit ≤ v.cycles := by
  induction n generalizing s with
  | zero => omega
  | succ n ih =>
    rw [reachesBelow_iff hs, executeLoop, if_pos hs, ← step_of_powered hp]
    cases hstep : step s with
    | next w =>
      obtain ⟨hpower, hcost⟩ := step_keeps hstep
      by_cases hw : limit ≤ w.cycles
      · have hbelow : ¬ ReachesBelow limit w o := fun h => Nat.not_lt.mpr hw h.lt
        simp only [executeLoop_of_le n hw, Host.Outcome.next.injEq, exists_eq_left', hbelow, or_false]
        refine ⟨fun ho => ⟨ho, fun v hv => ?_⟩, fun ho => ho.1⟩
        cases ho.trans hv
        exact hw
      · have hreached : (∀ v, o = .next v → limit ≤ v.cycles) → Host.Outcome.next w ≠ o := fun h ho => hw (h w ho.symm)
        simp only [ih (hpower.trans hp) (Nat.not_le.mp hw) (by omega), Host.Outcome.next.injEq, exists_eq_left']
        exact ⟨fun h => ⟨.inr h.1, h.2⟩, fun h => ⟨h.1.resolve_left (hreached h.2), h.2⟩⟩
    | fault f =>
      simp only [reduceCtorEq, false_and, exists_false, or_false]
      exact ⟨fun ho => ⟨ho, fun v hv => nomatch ho.trans hv⟩, And.left⟩
    | refused r =>
      simp only [reduceCtorEq, false_and, exists_false, or_false]
      exact ⟨fun ho => ⟨ho, fun v hv => nomatch ho.trans hv⟩, And.left⟩

/-- From an unpowered CPU nothing but its refusal is reached (R42). -/
theorem ReachesBelow.of_unpowered (h : ReachesBelow limit s o) (hp : s.powered = false) :
    o = .refused .executeUnpowered := by
  obtain ⟨n, u, hsteps, -, ho⟩ := h
  have hs := step_of_unpowered hp
  cases n with
  | zero =>
    cases hsteps
    exact ho.symm.trans hs
  | succ n =>
    obtain ⟨w, hw, -⟩ := hsteps
    cases hs.symm.trans hw

theorem State.execute_of_unpowered (hp : s.powered = false) (budget : Nat) :
    s.execute budget = .refused .executeUnpowered := by
  simp only [State.execute, hp, Bool.false_eq_true, if_false]

theorem State.execute_eq_next_iff {budget : Nat} (hb : 0 < budget) :
    s.execute budget = .next t ↔
      ∃ v, ReachesBelow (s.cycles + budget) s (.next v) ∧ s.cycles + budget ≤ v.cycles ∧
        t = { v with wakeReq := false } := by
  obtain hp | hp := Bool.eq_false_or_eq_true s.powered
  · have hloop (v : State) : executeLoop budget (s.cycles + budget) s = .next v ↔
        ReachesBelow (s.cycles + budget) s (.next v) ∧ s.cycles + budget ≤ v.cycles := by
      simp only [executeLoop_eq_iff hp (Nat.lt_add_of_pos_right hb) le_rfl, Host.Outcome.next.injEq, forall_eq']
    constructor
    · intro h
      obtain ⟨-, v, hv, rfl⟩ := State.execute_next h
      obtain ⟨hreached, hlimit⟩ := (hloop v).mp hv
      exact ⟨v, hreached, hlimit, rfl⟩
    · rintro ⟨v, hreached, hlimit, rfl⟩
      simp only [State.execute, hp, if_true, (hloop v).mpr ⟨hreached, hlimit⟩]
  · rw [State.execute_of_unpowered hp]
    exact ⟨fun h => (nomatch h), fun ⟨_, hreached, _⟩ => (nomatch hreached.of_unpowered hp)⟩

theorem State.execute_eq_fault_iff {budget : Nat} {f : Fault} :
    s.execute budget = .fault f ↔ ReachesBelow (s.cycles + budget) s (.fault f) := by
  obtain hp | hp := Bool.eq_false_or_eq_true s.powered
  · have hexecute : s.execute budget = .fault f ↔ executeLoop budget (s.cycles + budget) s = .fault f := by
      unfold State.execute
      rw [if_pos hp]
      cases executeLoop budget (s.cycles + budget) s with
      | next v => exact ⟨nofun, nofun⟩
      | fault g => exact Iff.rfl
      | refused r => exact Iff.rfl
    rw [hexecute]
    cases budget with
    | zero => exact ⟨fun h => (nomatch h), fun h => absurd h.lt (Nat.lt_irrefl _)⟩
    | succ n =>
      rw [executeLoop_eq_iff hp (Nat.lt_add_of_pos_right (Nat.succ_pos n)) le_rfl]
      exact ⟨And.left, fun h => ⟨h, nofun⟩⟩
  · rw [State.execute_of_unpowered hp]
    exact ⟨fun h => (nomatch h), fun h => (nomatch h.of_unpowered hp)⟩

end

/-! ## The image of a program (R503) -/

theorem length_packWords (bytes : List Byte) : (packWords bytes).length = bytes.length / 2 := by
  induction bytes using packWords.induct with
  | case1 hi lo rest ih =>
    rw [packWords, List.length_cons, ih, List.length_cons, List.length_cons]
    omega
  | case2 b => rw [packWords, List.length_nil, List.length_singleton]
  | case3 => rfl

/-- The two bytes of a word, the high one first (R72). -/
theorem ofNat_bytes (hi lo : Byte) : BitVec.ofNat 16 (hi.toNat * 256 + lo.toNat) = hi ++ lo := by
  have hlo := lo.isLt
  have hhi := hi.isLt
  apply BitVec.eq_of_toNat_eq
  rw [BitVec.toNat_append, ← Nat.shiftLeft_add_eq_or_of_lt hlo, Nat.shiftLeft_eq, BitVec.toNat_ofNat]
  omega

theorem getD_packWords {bytes : List Byte} {i : Nat} (h : 2 * i + 1 < bytes.length) :
    (packWords bytes).getD i 0#16 = bytes.getD (2 * i) 0#8 ++ bytes.getD (2 * i + 1) 0#8 := by
  induction bytes using packWords.induct generalizing i with
  | case1 hi lo rest ih =>
    cases i with
    | zero => exact ofNat_bytes hi lo
    | succ i =>
      rw [List.length_cons, List.length_cons] at h
      exact ih (by omega)
  | case2 b =>
    rw [List.length_singleton] at h
    omega
  | case3 => cases h

/-! ## The snapshot (R504 to R507) -/

section
variable (c : SnapshotCodec) (u : State)

theorem SnapshotCodec.decodeExact_encode (r : Snapshot) : c.decodeExact (c.encode r) = some r := by
  rw [SnapshotCodec.decodeExact, c.decode_encode, Option.filter_some, if_pos (beq_self_eq_true _)]

/-- Bytes that are no whole encoding of a record do not decode (D30; log entry 26). -/
theorem SnapshotCodec.decodeExact_eq_none {bytes : List Byte} (h : ∀ r, c.encode r ≠ bytes) :
    c.decodeExact bytes = none := by
  rw [SnapshotCodec.decodeExact, Option.filter_eq_none_iff]
  intro r _
  simpa using h r

theorem Snapshot.accepted_iff (r : Snapshot) :
    r.accepted = true ↔ r.magic = Config.snapshotMagic ∧ r.version = Config.snapshotVersion ∧ r.memory.length = 65536 ∧
      r.queue.length = r.queueLength := by
  simp only [Snapshot.accepted, Bool.and_eq_true, decide_eq_true_eq, and_assoc]

theorem State.accepted_save (s : State) : s.save.accepted = true :=
  s.save.accepted_iff.mpr ⟨rfl, rfl, s.mem.length_toWords, rfl⟩

theorem State.load_of_rejected {r : Snapshot} (h : r.accepted = false) : u.load (some r) = (u, .loadError) := by
  simp only [State.load, h, Bool.false_eq_true, if_false]

/-- A Load that answers LoadError changes nothing (R507). -/
theorem State.load_eq_of_loadError {r : Option Snapshot} (h : (u.load r).2 = .loadError) :
    u.load r = (u, .loadError) := by
  cases r with
  | none => rfl
  | some r =>
    obtain hr | hr := Bool.eq_false_or_eq_true r.accepted
    · simp only [State.load, hr, if_true] at h
      cases h
    · exact State.load_of_rejected u hr

/-- What was saved replaces the fields of R504 and no others (R506). -/
theorem State.load_save {s : State} (h : s.mem.wf = true) :
    u.load (some s.save) =
      ({ s with
        cycles := u.cycles, wakeReq := u.wakeReq, pending := u.pending, powered := u.powered, slots := u.slots,
        params := u.params }, .loaded) := by
  have hmem : Memory.ofWords s.mem.toWords = s.mem := Memory.ofWords_toWords h
  have hload : u.load (some s.save) = (u.restore s.save, .loaded) := by
    simp only [State.load, s.accepted_save, if_true]
  rw [hload]
  simp only [State.restore, State.save, State.cpuRegs, hmem]

end

end Sys2Proof.Machine

namespace Sys2Proof

open Machine Claims

/-- Settles O55: the loop is a run of steps below the limit, whose last one reaches it or has no successor. -/
theorem executeConsumesBudget : Obligations.ExecuteConsumesBudget := by
  intro budget s
  refine ⟨fun hp => ⟨step_of_unpowered hp, s.execute_of_unpowered hp budget⟩, fun hp => ?zero, fun t hb => ?next,
    fun f => ?fault, fun t h => ?reply⟩
  case zero => simp only [State.execute, hp, if_true, executeLoop]
  case next =>
    rw [State.execute_eq_next_iff hb]
    constructor
    · rintro ⟨v, ⟨n, u, hsteps, hu, hv⟩, hlimit, ht⟩
      exact ⟨n, u, v, hsteps, hu, hv, hlimit, ht⟩
    · rintro ⟨n, u, v, hsteps, hu, hv, hlimit, ht⟩
      exact ⟨v, ⟨n, u, hsteps, hu, hv⟩, hlimit, ht⟩
  case fault => exact State.execute_eq_fault_iff
  case reply => simp only [hostCall, hostAct, h, answer]

/-- Settles O56: both queries compare the word at PC with the halt word. -/
theorem haltQueries : Obligations.HaltQueries := by
  intro s
  have hhalted : s.isHalted = decide (s.read s.pc = 0x8382#16) := beq_eq_decide _ _
  simp only [hostCall, hostAct, State.isPendingWakeUp, hhalted, and_self]

/-- Settles O57: an image that is not refused is a block of writes of its packed words from address 0 on. -/
theorem loadImagePacksBigEndian : Obligations.LoadImagePacksBigEndian := by
  intro bytes s hmem
  refine ⟨fun h => if_pos h, fun heven h => ?large, fun heven h => ?load⟩
  case large => rw [State.loadImage, if_neg (not_not.mpr heven), if_pos h]
  case load =>
    have hlen := length_packWords bytes
    refine ⟨s.mem.writeBlock 0#16 (packWords bytes), ?image, fun i hi => ?inside, fun addr haddr => ?outside⟩
    case image => rw [State.loadImage, if_neg (not_not.mpr heven), if_neg (Nat.not_lt.mpr h)]
    case inside =>
      have hread := Memory.read_writeBlock (packWords bytes) hmem 0#16 (by omega) (show i < _ by omega)
      rw [BitVec.zero_add] at hread
      rw [hread, getD_packWords hi]
    case outside =>
      refine Memory.read_writeBlock_ne _ fun i hi e => ?_
      rw [BitVec.zero_add] at e
      have hi' : (BitVec.ofNat 16 i).toNat = i := Nat.mod_eq_of_lt (by omega)
      rw [e, hi'] at haddr
      omega

/-- Settles O58: what was saved decodes to its record, which is accepted, and every other input is rejected before any field
is replaced. -/
theorem snapshotRoundTrip : Obligations.SnapshotRoundTrip := by
  intro c u
  refine ⟨fun s h => ?saved, fun bytes h => ?undecoded, fun bytes h => ?inexact, fun r h => ?record, fun r h => ?call⟩
  case saved => rw [State.loadBytes, State.saveBytes, c.decodeExact_encode, u.load_save h]
  case undecoded =>
    rw [State.loadBytes, SnapshotCodec.decodeExact, h]
    rfl
  case inexact =>
    rw [State.loadBytes, c.decodeExact_eq_none h]
    rfl
  case record =>
    rw [State.loadBytes, c.decodeExact_encode]
    refine u.load_of_rejected ?_
    rw [Bool.eq_false_iff, ne_eq, r.accepted_iff]
    rintro ⟨hmagic, hversion, hmemory, hqueue⟩
    obtain h | h | h | h := h
    · exact h hmagic
    · exact h hversion
    · exact h hmemory
    · exact h hqueue
  case call => simp only [hostCall, hostAct, u.load_eq_of_loadError h]

end Sys2Proof
end
